-- ==== Sys2Proof/Word.lean ====
section
/-! DEFINITION. The widths of the block (spec/00_scope.md section 5: bit 0 is the least significant bit of a value). -/

namespace Sys2Proof

/-- A byte, numbered 7 down to 0 (00_scope.md section 5). -/
abbrev Byte := BitVec 8

/-- A command word: `OP[35:32]`, `ARG[31:0]` (30_encoding.md R60). -/
abbrev CommandWord := BitVec 36

/-- The control word `CTRL` (10_state.md R21). -/
abbrev ControlWord := BitVec 16

/-- The frequency register `PAYLOAD`, `P0` in bits 31:24 (10_state.md R25). -/
abbrev Payload := BitVec 32

/-- The tuning word `W`, `W_BITS = 28` (00_scope.md R3). -/
abbrev TuningWord := BitVec 28

/-- One half of the tuning word, `H_BITS = 14` (00_scope.md R3). -/
abbrev Half := BitVec 14

/-- The 48-bit frame of one transaction (30_encoding.md R69). -/
abbrev Frame := BitVec 48

end Sys2Proof
end

