-- ==== Sys2Proof/Config.lean ====
section
/-! DEFINITION. The block's parameters (spec/00_scope.md section 4) and the free values (draws) of the spec.
SOURCE rows are constants. OPEN rows are opaque: nothing is known of them but rule R6. DECIDED rows are parameters
that the machine holds at the spec's defaults. -/

namespace Sys2Proof

/-- `F_REF`, in Hz: "fixed at 25,000,000 Hz" (00_scope.md R2). -/
def Config.refClock : Nat := 25000000

/-- `MARKER_SLOT0` (00_scope.md section 4, 30_encoding.md R68). -/
def Config.markerSlot0 : Byte := 0x40#8

/-- `MARKER_SLOT1` (00_scope.md section 4, 30_encoding.md R68). -/
def Config.markerSlot1 : Byte := 0x80#8

/-- The three shapes of set-waveform (30_encoding.md R72). -/
inductive Shape where
  | sine
  | triangle
  | square
  deriving DecidableEq, Repr

/-- `MARKER_MODE`: which marker goes on which half (30_encoding.md R68). -/
inductive MarkerMode where
  | perHalf
  | bothSlot0
  | bothSlot1
  deriving DecidableEq, Repr

/-- `BIT_ORDER` within a byte on the link (20_memory.md R46, 42_transmitter.md R143). -/
inductive BitOrder where
  | msbFirst
  | lsbFirst
  deriving DecidableEq, Repr

/-- `FREQ_FORMAT`, the form of SET_FREQ's operand (30_encoding.md R63). -/
inductive FreqFormat where
  | binary32
  | rational
  deriving DecidableEq, Repr

/-- The OPEN control-word parameters, for which the document gives no value (00_scope.md section 4,
92_eei_decisions.md D12). -/
structure OpenParams where
  /-- `CTRL_INIT` -/
  ctrlInit : ControlWord
  /-- `DISABLE_BIT`, 0 to 15 -/
  disableBit : Fin 16
  /-- `WAVE_CLEAR_MASK` -/
  waveClearMask : Byte
  /-- `WAVE_CODE_SINE` -/
  codeSine : Byte
  /-- `WAVE_CODE_TRIANGLE` -/
  codeTriangle : Byte
  /-- `WAVE_CODE_SQUARE` -/
  codeSquare : Byte
  deriving DecidableEq, Repr

/-- The code of a shape (30_encoding.md R72). -/
def OpenParams.waveCode (p : OpenParams) : Shape → Byte
  | .sine => p.codeSine
  | .triangle => p.codeTriangle
  | .square => p.codeSquare

/-- R6 item 1 for one code: "A legal waveform code sets only bits that `WAVE_CLEAR_MASK` clears." -/
def OpenParams.codeInMask (p : OpenParams) (code : Byte) : Bool :=
  code &&& ~~~p.waveClearMask == 0#8

/-- R6 item 2 for one byte: "If `DISABLE_BIT < 8`, then bit `DISABLE_BIT`" of it "is 0". -/
def OpenParams.sparesDisableBit (p : OpenParams) (b : Byte) : Bool :=
  decide (8 ≤ p.disableBit.val) || !b.getLsbD p.disableBit.val

/-- The constraints of 00_scope.md R6 on the OPEN parameters, items 1 to 3. Item 4 names a flag whose position the
document does not give: "a model cannot check this constraint". -/
def OpenParams.legal (p : OpenParams) : Bool :=
  (p.codeInMask p.codeSine && p.codeInMask p.codeTriangle && p.codeInMask p.codeSquare)
  && (p.sparesDisableBit p.waveClearMask && p.sparesDisableBit p.codeSine
      && p.sparesDisableBit p.codeTriangle && p.sparesDisableBit p.codeSquare)
  && (p.codeSine != p.codeTriangle && p.codeSine != p.codeSquare && p.codeTriangle != p.codeSquare)

/-- PRESUMED. The reference instantiation `RI-1` (92_eei_decisions.md D12), "from general knowledge, not in source".
Only tests read it, and the type below needs some legal value to be known non-empty. -/
def OpenParams.ri1 : OpenParams :=
  { ctrlInit := 0x2100#16, disableBit := 8, waveClearMask := 0x2A#8,
    codeSine := 0x00#8, codeTriangle := 0x02#8, codeSquare := 0x28#8 }

/-- OPEN parameters together with the proof that they meet R6. -/
structure LegalParams where
  params : OpenParams := OpenParams.ri1
  isLegal : params.legal = true := by decide
  deriving Inhabited

/-- The OPEN parameters of this machine: any values that meet R6. No body: nothing else is known of them. -/
opaque Config.openParams : LegalParams

/-- `draw_32()` at power-on: draw number `n` (10_state.md R25, 92_eei_decisions.md D16). No law attached. -/
opaque Config.freePayload : Nat → Payload

/-- `draw_28()`: draw number `n`, the tuning word of an out-of-domain operand (40_encoder.md R106,
92_eei_decisions.md D9 and D27). No law attached. -/
opaque Config.freeTuningWord : Nat → TuningWord

/-- Everything fixed for one machine: the OPEN parameters and the three parameters with a decided default. -/
structure Config extends OpenParams where
  markerMode : MarkerMode
  freqFormat : FreqFormat
  bitOrder : BitOrder
  deriving DecidableEq, Repr

/-- The parameters of this machine: OPEN ones opaque, decided ones at the spec's defaults (92_eei_decisions.md D10, D4,
D19). -/
def Config.machine : Config :=
  { Config.openParams.params with markerMode := .perHalf, freqFormat := .binary32, bitOrder := .msbFirst }

/-- PRESUMED. `RI-1` under the decided defaults, for tests only (95_test_vectors.md). -/
def Config.ri1 : Config :=
  { OpenParams.ri1 with markerMode := .perHalf, freqFormat := .binary32, bitOrder := .msbFirst }

end Sys2Proof
end

