-- ==== Sys2Proof/Syntax.lean ====
section
/-! DEFINITION. The five commands (spec/30_encoding.md R61, spec/opcode_table.json), one constructor per row, and the
form in which the host offers them. -/

namespace Sys2Proof

/-- An exact frequency `num / den` in Hz, "with `num` an integer and `den` a positive natural number" (30_encoding.md
R63, `RATIONAL`; also the exact value of a binary32 pattern, R64). No other operand can be written. -/
structure ExactFreq where
  num : Int
  den : Nat
  den_pos : 0 < den := by decide
  deriving DecidableEq, Repr

/-- The operand of SET_FREQ in either `FREQ_FORMAT` (30_encoding.md R63). -/
inductive FreqOperand where
  /-- `ARG[31:0]` as an IEEE 754 binary32 pattern -/
  | binary32 (a : BitVec 32)
  /-- an exact rational in place of the pattern -/
  | rational (f : ExactFreq)
  deriving DecidableEq, Repr

/-- The commands. Operand bits a command ignores are kept, so that the recorded command word (60_exceptions.md R165) is
the one the host sent. -/
inductive Instr where
  /-- INIT (41_commands.md R121). `ARG` is ignored (30_encoding.md R70). -/
  | init (arg : BitVec 32)
  /-- OUTPUT_ON (R122). `ARG` is ignored. -/
  | outputOn (arg : BitVec 32)
  /-- OUTPUT_OFF (R123). `ARG` is ignored. -/
  | outputOff (arg : BitVec 32)
  /-- SET_FREQ (R124). -/
  | setFreq (f : FreqOperand)
  /-- SET_WAVE (R125): `ARG[31:8]` is ignored, `ARG[7:0]` is the code (30_encoding.md R66). -/
  | setWave (unused : BitVec 24) (code : Byte)
  deriving DecidableEq, Repr

/-- What the host offers to the block: a command word, or under `FREQ_FORMAT = RATIONAL` the SET_FREQ that "carries an
exact rational operand instead of a 32-bit pattern" (30_encoding.md R63). -/
inductive Command where
  | word (w : CommandWord)
  | exactFreq (f : ExactFreq)
  deriving DecidableEq, Repr

end Sys2Proof
end

