-- ==== Sys2Proof/WellFormed.lean ====
section
/-! DEFINITION. Which operands, instructions and commands exist under a `FREQ_FORMAT` (spec/30_encoding.md R63). No other
field of a command is checked: every pattern and every code is accepted, and unused bits are ignored (R65, R66, R70). -/

namespace Sys2Proof

/-- The `FREQ_FORMAT` an operand is written in. -/
def FreqOperand.format : FreqOperand → FreqFormat
  | .binary32 _ => .binary32
  | .rational _ => .rational

/-- An instruction that exists under `FREQ_FORMAT = fmt`: only SET_FREQ depends on it. -/
def Instr.inFormat (fmt : FreqFormat) : Instr → Bool
  | .setFreq f => f.format == fmt
  | .init _ => true
  | .outputOn _ => true
  | .outputOff _ => true
  | .setWave _ _ => true

/-- A command a host may send under `FREQ_FORMAT = fmt`: under RATIONAL, "the command word ... applies only to the other
four operations" (30_encoding.md R63), and an exact operand exists only under RATIONAL. -/
def Command.inFormat (fmt : FreqFormat) : Command → Bool
  | .word w => fmt == .binary32 || w.extractLsb' 32 4 != 0x4#4
  | .exactFreq _ => fmt == .rational

end Sys2Proof
end

