-- ==== Sys2Proof/Decode.lean ====
section
/-! DEFINITION. Decoding a command, total and rejecting by name, and the encoder (spec/30_encoding.md R60 to R66, R70,
R73; spec/opcode_table.json). -/

namespace Sys2Proof

/-- What a command decodes to: one of the five commands, or a named rejection. -/
inductive Decoded where
  | command (i : Instr)
  /-- `RESERVED`: OP = 0x0 or 0x6 to 0xF (30_encoding.md R62) -/
  | reserved
  deriving DecidableEq, Repr

/-- `OP = cmd[35:32]` (30_encoding.md R60). -/
def wordOp (w : CommandWord) : BitVec 4 := w.extractLsb' 32 4

/-- `ARG = cmd[31:0]` (30_encoding.md R60). -/
def wordArg (w : CommandWord) : BitVec 32 := w.extractLsb' 0 32

/-- `code = ARG[7:0]` (30_encoding.md R66). -/
def argCode (arg : BitVec 32) : Byte := arg.extractLsb' 0 8

/-- `ARG[31:8]`, which SET_WAVE ignores (30_encoding.md R66). -/
def argAboveCode (arg : BitVec 32) : BitVec 24 := arg.extractLsb' 8 24

/-- Decoding a command word. "Decoding reads `OP` alone" (30_encoding.md R73). -/
def decodeWord (w : CommandWord) : Decoded :=
  if wordOp w = 0x1#4 then .command (.init (wordArg w))
  else if wordOp w = 0x2#4 then .command (.outputOn (wordArg w))
  else if wordOp w = 0x3#4 then .command (.outputOff (wordArg w))
  else if wordOp w = 0x4#4 then .command (.setFreq (.binary32 (wordArg w)))
  else if wordOp w = 0x5#4 then .command (.setWave (argAboveCode (wordArg w)) (argCode (wordArg w)))
  else .reserved

/-- Decoding whatever the host offers. -/
def decode : Command → Decoded
  | .word w => decodeWord w
  | .exactFreq f => .command (.setFreq (.rational f))

/-- A command word from its two fields (30_encoding.md R60). -/
def wordOf (op : BitVec 4) (arg : BitVec 32) : CommandWord := op ++ arg

/-- The encoder: the word of each row of the opcode table, or the exact SET_FREQ, which has no word (R63). -/
def encode : Instr → Command
  | .init arg => .word (wordOf 0x1#4 arg)
  | .outputOn arg => .word (wordOf 0x2#4 arg)
  | .outputOff arg => .word (wordOf 0x3#4 arg)
  | .setFreq (.binary32 a) => .word (wordOf 0x4#4 a)
  | .setFreq (.rational f) => .exactFreq f
  | .setWave unused code => .word (wordOf 0x5#4 (unused ++ code))

/-- The command word in the low 36 of the `nbits` bits the host numbers. A command word has no bit above 35, so padding
up to whole bytes is dropped. -/
def tableWord (nbits w : Nat) : CommandWord := BitVec.ofNat 36 (w % 2 ^ nbits)

/-- The instruction the decoder reads from a row's bits. -/
def decodeTableWord (nbits w : Nat) : Option Instr :=
  match decode (.word (tableWord nbits w)) with
  | .command i => some i
  | .reserved => none

end Sys2Proof
end

