-- ==== Sys2Proof/Machine/State.lean ====
section
/-! DEFINITION. The block's state (spec/10_state.md R20), the link events (spec/42_transmitter.md R140), the reasons a
step can stop (spec/60_exceptions.md R164) and the state after power-on reset (spec/70_reset_and_hazards.md R180). -/

namespace Sys2Proof.Machine

/-- An event on the serial link (42_transmitter.md R140). -/
inductive LinkEvent where
  /-- `Assert`: `cs_n` falls to 0 -/
  | assert
  /-- `Byte(b)`: `b` is shifted out -/
  | byte (b : Byte)
  /-- `Deassert`: `cs_n` rises to 1 -/
  | deassert
  deriving DecidableEq, Repr

/-- The state. The first six fields are the block's elements, "exactly these" (10_state.md R20); the last four are the
model's own (INVENTORY.md). -/
structure State where
  /-- `CTRL`, the control word (10_state.md R21) -/
  ctrl : ControlWord
  /-- `PAYLOAD`, the frequency register (10_state.md R25) -/
  payload : Payload
  /-- `cs_n`, the select line level: true is 1, deasserted (10_state.md R28) -/
  csN : Bool
  /-- `LINK_READY` (10_state.md R30) -/
  linkReady : Bool
  /-- `FAULTED`, a model mark (10_state.md R31) -/
  faulted : Bool
  /-- `REFUSED`, a model mark (10_state.md R31) -/
  refused : Bool
  /-- the link events emitted since power-on, oldest first (00_scope.md R5) -/
  link : List LinkEvent
  /-- the commands the host has offered and the block has not taken, oldest first (20_memory.md R50, log 8) -/
  pending : List Command
  /-- how many draws have been taken (40_encoder.md R106, log 5) -/
  draws : Nat
  /-- the parameters of this machine (00_scope.md section 4, log 2); no step changes them -/
  cfg : Config
  deriving DecidableEq, Repr

/-- Why a step ends in a fault. 60_exceptions.md R164's closed list has the one member NOT_INITIALISED; `runEnded` is no
member of it, it says that there is no step (log 7). -/
inductive Fault where
  /-- `NOT_INITIALISED`. Raised by OUTPUT_ON, OUTPUT_OFF, SET_FREQ and SET_WAVE while `LINK_READY = 0` (60_exceptions.md
  R164, R165). It records the command, and the final state, in which only `FAULTED` is written. Safe: the spec errs
  "toward unprovable" here (92_eei_decisions.md D18). -/
  | notInitialised (cmd : Command) (final : State)
  /-- The stuck state: `FAULTED` or `REFUSED` is set, so "the model has no further step" (60_exceptions.md R167;
  93_implementation_defined.md U7). Raised by every step and every command of an ended run. Safe. -/
  | runEnded
  deriving DecidableEq, Repr

/-- Why a step ends in a refusal. 60_exceptions.md R164's closed list has the one member RESERVED_OPCODE; the host's own
name for an arm without a meaning stands beside it, and no step answers it. -/
inductive Refusal where
  /-- An instruction whose arm has no meaning yet. No arm of exec answers this now. Safe. -/
  | notModelled (mnemonic : String)
  /-- `RESERVED_OPCODE`. Raised by a step whose command word has OP = 0x0 or 0x6 to 0xF (30_encoding.md R62,
  60_exceptions.md R166). It records the command, and the final state, in which only `REFUSED` is written. Safe. -/
  | reservedOpcode (cmd : Command) (final : State)
  deriving DecidableEq, Repr

/-- The state after power-on reset of a machine with parameters `cfg`, where `n` is the number of the draw that
`PAYLOAD` takes (70_reset_and_hazards.md R180). Reset emits no event (R181). -/
def State.resetUnder (cfg : Config) (n : Nat) : State :=
  { ctrl := cfg.ctrlInit
    payload := Config.freePayload n
    csN := true
    linkReady := false
    faulted := false
    refused := false
    link := []
    pending := []
    draws := n + 1
    cfg := cfg }

/-- The machine right after its first power-on reset. -/
def State.reset : State := State.resetUnder Config.machine 0

end Sys2Proof.Machine
end

