-- ==== Sys2Proof/Machine/Ops.lean ====
section
/-! DEFINITION. The named operations on registers, link and host queue, and the two shared ways a command ends a run
(spec/00_scope.md section 5, spec/60_exceptions.md R165 to R168, spec/41_commands.md R120). -/

namespace Sys2Proof.Machine

/-- What a step or a meaning answers. -/
abbrev Result := Host.Outcome State Fault Refusal

/-- `CTRL <- v` -/
def State.setCtrl (s : State) (v : ControlWord) : State := { s with ctrl := v }

/-- `PAYLOAD <- v`, all 32 bits at once (10_state.md R26) -/
def State.setPayload (s : State) (v : Payload) : State := { s with payload := v }

/-- `cs_n <- v` -/
def State.setSelect (s : State) (v : Bool) : State := { s with csN := v }

/-- `LINK_READY <- 1` -/
def State.setLinkReady (s : State) : State := { s with linkReady := true }

/-- `FAULTED <- 1` -/
def State.markFaulted (s : State) : State := { s with faulted := true }

/-- `REFUSED <- 1` -/
def State.markRefused (s : State) : State := { s with refused := true }

/-- `emit(e)`: append a link event (00_scope.md section 5) -/
def State.emit (s : State) (e : LinkEvent) : State := { s with link := s.link ++ [e] }

/-- One more draw has been taken. -/
def State.countDraw (s : State) : State := { s with draws := s.draws + 1 }

/-- The host's queue of offered commands becomes `q`. -/
def State.withPending (s : State) (q : List Command) : State := { s with pending := q }

/-- The run has ended: `FAULTED = 1 or REFUSED = 1` (41_commands.md R120). -/
def State.ended (s : State) : Bool := s.faulted || s.refused

/-- `CTRL_HI = CTRL[15:8]` (10_state.md R21) -/
def ctrlHi (c : ControlWord) : Byte := c.extractLsb' 8 8

/-- `CTRL_LO = CTRL[7:0]` (10_state.md R21) -/
def ctrlLo (c : ControlWord) : Byte := c.extractLsb' 0 8

/-- `P0 = PAYLOAD[31:24]` (10_state.md R25) -/
def payloadP0 (p : Payload) : Byte := p.extractLsb' 24 8

/-- `P1 = PAYLOAD[23:16]` (10_state.md R25) -/
def payloadP1 (p : Payload) : Byte := p.extractLsb' 16 8

/-- `P2 = PAYLOAD[15:8]` (10_state.md R25) -/
def payloadP2 (p : Payload) : Byte := p.extractLsb' 8 8

/-- `P3 = PAYLOAD[7:0]` (10_state.md R25) -/
def payloadP3 (p : Payload) : Byte := p.extractLsb' 0 8

/-- `raise Fault(NOT_INITIALISED)`: "writes no register other than `FAULTED`, and emits no link event"; the command is
recorded (60_exceptions.md R165). The block's whole fault entry: it has no trap, vector or return (R170). -/
def raiseNotInitialised (cmd : Command) (s : State) : Result :=
  .fault (.notInitialised cmd s.markFaulted)

/-- `refuse(RESERVED_OPCODE)`: "writes no register other than `REFUSED`, and emits no link event"; the command is
recorded (60_exceptions.md R166). -/
def refuseReserved (cmd : Command) (s : State) : Result :=
  .refused (.reservedOpcode cmd s.markRefused)

/-- The first check of 41_commands.md R120: once a run has ended there is no step (60_exceptions.md R167). -/
def unlessEnded (s : State) (go : Result) : Result :=
  if s.ended then .fault .runEnded else go

/-- The checks of 41_commands.md R120 that a decoded transmitting command meets, in the order of 60_exceptions.md R168:
ended run, then link readiness. Then `effect` runs. -/
def whenLinkReady (cmd : Command) (s : State) (effect : State → State) : Result :=
  unlessEnded s (if s.linkReady then .next (effect s) else raiseNotInitialised cmd s)

/-- Power-on reset of a machine in any state, which starts a new run (41_commands.md R129, 70_reset_and_hazards.md
R180). The parameters stay and `PAYLOAD` takes a fresh draw (log 15). It is no command and no step. -/
def powerOn (s : State) : State := State.resetUnder s.cfg s.draws

end Sys2Proof.Machine
end

