-- ==== Sys2Proof/Machine/Operands.lean ====
section
/-! DEFINITION. The operand of SET_FREQ: its exact value and the encoder's domain (spec/30_encoding.md R63 to R65,
spec/40_encoder.md R101). SET_WAVE's operand is taken apart in Decode.lean (`argCode`). -/

namespace Sys2Proof.Machine

/-- `s = a[31]` (30_encoding.md R64): true is 1. -/
def binary32Sign (a : BitVec 32) : Bool := a.getLsbD 31

/-- `e = a[30:23]` (30_encoding.md R64) -/
def binary32Exponent (a : BitVec 32) : Nat := (a.extractLsb' 23 8).toNat

/-- `m = a[22:0]` (30_encoding.md R64) -/
def binary32Fraction (a : BitVec 32) : Nat := (a.extractLsb' 0 23).toNat

/-- `(-1)^s * n` (30_encoding.md R64) -/
def signedBy (s : Bool) (n : Nat) : Int := if s then -(n : Int) else (n : Int)

/-- `v * 2^(k - 150)` as an exact fraction. -/
def scaled (v : Int) (k : Nat) : ExactFreq :=
  if 150 ≤ k then { num := v * 2 ^ (k - 150), den := 1 }
  else { num := v, den := 2 ^ (150 - k), den_pos := Nat.two_pow_pos _ }

/-- `val(a)` under BINARY32 (30_encoding.md R64); `none` is an infinity or a NaN. `m * 2^(-149)` is
`m * 2^(1 - 150)`. -/
def binary32Val (a : BitVec 32) : Option ExactFreq :=
  if binary32Exponent a = 255 then none
  else if binary32Exponent a = 0 then
    some (scaled (signedBy (binary32Sign a) (binary32Fraction a)) 1)
  else
    some (scaled (signedBy (binary32Sign a) (2 ^ 23 + binary32Fraction a)) (binary32Exponent a))

/-- `val(a)` in either format. Under RATIONAL "`val` is never `none`" (30_encoding.md R63). -/
def operandVal : FreqOperand → Option ExactFreq
  | .binary32 a => binary32Val a
  | .rational f => some f

/-- The value of an operand in the encoder's domain: "`v = val(a)` is not `none` and `v >= 0`" (40_encoder.md R101).
`none` for every other operand. -/
def domainVal (f : FreqOperand) : Option ExactFreq :=
  match operandVal f with
  | some v => if 0 ≤ v.num then some v else none
  | none => none

end Sys2Proof.Machine
end

