-- ==== Sys2Proof/Machine/Encoder.lean ====
section
/-! DEFINITION. The frequency-word encoder `ENCODE` (spec/40_encoder.md R100 to R107) and the decoding of a payload
(R108). It reads no block state. -/

namespace Sys2Proof.Machine

/-- `M0`, ORed into `P0` (30_encoding.md R68). -/
def marker0 : MarkerMode → Byte
  | .perHalf => Config.markerSlot0
  | .bothSlot0 => Config.markerSlot0
  | .bothSlot1 => Config.markerSlot1

/-- `M1`, ORed into `P2` (30_encoding.md R68). -/
def marker1 : MarkerMode → Byte
  | .perHalf => Config.markerSlot1
  | .bothSlot0 => Config.markerSlot0
  | .bothSlot1 => Config.markerSlot1

/-- `q = floor(2^28 * v / F_REF)` for `v >= 0`, in exact arithmetic (40_encoder.md R102). -/
def quantise (v : ExactFreq) : Nat := 2 ^ 28 * v.num.toNat / (Config.refClock * v.den)

/-- `W`: `q mod 2^28` for an operand in the domain (40_encoder.md R103), else the draw (R106). -/
def tuningWord (f : FreqOperand) (draw : TuningWord) : TuningWord :=
  match domainVal f with
  | some v => BitVec.ofNat 28 (quantise v)
  | none => draw

/-- `HI = W[27:14]` (40_encoder.md R104) -/
def highHalf (w : TuningWord) : Half := w.extractLsb' 14 14

/-- `LO = W[13:0]` (40_encoder.md R104) -/
def lowHalf (w : TuningWord) : Half := w.extractLsb' 0 14

/-- `zext_8(H[13:8]) OR M` (40_encoder.md R105) -/
def markedByte (h : Half) (m : Byte) : Byte := (h.extractLsb' 8 6).setWidth 8 ||| m

/-- `H[7:0]` (40_encoder.md R105) -/
def lowerByte (h : Half) : Byte := h.extractLsb' 0 8

/-- The payload of a tuning word: `P0 ++ P1 ++ P2 ++ P3` (40_encoder.md R105, 30_encoding.md R67). -/
def payloadOf (mode : MarkerMode) (w : TuningWord) : Payload :=
  (markedByte (highHalf w) (marker0 mode) ++ lowerByte (highHalf w))
    ++ (markedByte (lowHalf w) (marker1 mode) ++ lowerByte (lowHalf w))

/-- `ENCODE(a)` (40_encoder.md R107), where `draw` is the draw an out-of-domain operand takes. -/
def encodeFrequency (mode : MarkerMode) (f : FreqOperand) (draw : TuningWord) : Payload :=
  payloadOf mode (tuningWord f draw)

/-- The tuning word in a payload: "strip markers, recombine halves" (40_encoder.md R108). -/
def payloadTuningWord (p : Payload) : TuningWord :=
  (p.extractLsb' 24 6 ++ payloadP1 p) ++ (p.extractLsb' 8 6 ++ payloadP3 p)

end Sys2Proof.Machine
end

