-- ==== Sys2Proof/Machine/Flags.lean ====
section
/-! DEFINITION. The fields of CTRL and their updates: the disable bit, the output state it stands for, and the waveform
field (spec/10_state.md R22, R27; spec/41_commands.md R122, R123, R125). -/

namespace Sys2Proof.Machine

/-- The block's two output states, which are no separate storage (10_state.md R27). -/
inductive OutputState where
  | enabled
  | disabled
  deriving DecidableEq, Repr

/-- `OUTPUT_DISABLED` exactly when `CTRL[DISABLE_BIT] = 1` (10_state.md R27). -/
def outputStateOf (cfg : Config) (c : ControlWord) : OutputState :=
  if c.getLsbD cfg.disableBit.val then .disabled else .enabled

/-- The output state of the block (10_state.md R27). -/
def State.outputState (s : State) : OutputState := outputStateOf s.cfg s.ctrl

/-- The control word with only `CTRL[DISABLE_BIT]` set. -/
def disableMask (cfg : Config) : ControlWord := 1#16 <<< cfg.disableBit.val

/-- `CTRL[DISABLE_BIT] <- 0`, "every other bit of CTRL unchanged" (41_commands.md R122). -/
def clearDisable (cfg : Config) (c : ControlWord) : ControlWord := c &&& ~~~disableMask cfg

/-- `CTRL[DISABLE_BIT] <- 1`, "every other bit of CTRL unchanged" (41_commands.md R123). -/
def setDisable (cfg : Config) (c : ControlWord) : ControlWord := c ||| disableMask cfg

/-- `(CTRL[7:0] AND NOT WAVE_CLEAR_MASK) OR code`, at 8 bits (41_commands.md R125). -/
def waveLow (cfg : Config) (code lo : Byte) : Byte := (lo &&& ~~~cfg.waveClearMask) ||| code

/-- SET_WAVE's new control word: `CTRL[15:8]` unchanged (41_commands.md R125). -/
def setWaveform (cfg : Config) (code : Byte) (c : ControlWord) : ControlWord :=
  ctrlHi c ++ waveLow cfg code (ctrlLo c)

end Sys2Proof.Machine
end

