-- ==== Sys2Proof/Machine/Transmitter.lean ====
section
/-! DEFINITION. The register transmitter `TRANSMIT` (spec/42_transmitter.md R140 to R147) and the bit-level view of the
link (R143). -/

namespace Sys2Proof.Machine

/-- `cs_n <- 0; emit(Assert)` (42_transmitter.md R140) -/
def State.assertSelect (s : State) : State := (s.setSelect false).emit .assert

/-- `emit(Byte(b))` (42_transmitter.md R140) -/
def State.sendByte (s : State) (b : Byte) : State := s.emit (.byte b)

/-- `cs_n <- 1; emit(Deassert)` (42_transmitter.md R140) -/
def State.deassertSelect (s : State) : State := (s.setSelect true).emit .deassert

/-- The six bytes of a transaction, in order (30_encoding.md R69, 20_memory.md R44 and R45). -/
def frameBytes (c : ControlWord) (p : Payload) : List Byte :=
  [ctrlHi c, ctrlLo c, payloadP0 p, payloadP1 p, payloadP2 p, payloadP3 p]

/-- `TRANSMIT()`: assert, send the six bytes of the snapshot, deassert (42_transmitter.md R140). -/
def transmit (s : State) : State :=
  ((frameBytes s.ctrl s.payload).foldl State.sendByte s.assertSelect).deassertSelect

/-- The events of one transaction (42_transmitter.md R140). -/
def transaction (c : ControlWord) (p : Payload) : List LinkEvent :=
  .assert :: (frameBytes c p).map .byte ++ [.deassert]

/-- The 48-bit frame `CTRL[15:0] ++ PAYLOAD[31:0]` (30_encoding.md R69). -/
def frameOf (c : ControlWord) (p : Payload) : Frame := c ++ p

/-- The 8 bit-times of one byte on `sdata`, first bit first (42_transmitter.md R143). -/
def byteBits (order : BitOrder) (b : Byte) : List Bool :=
  match order with
  | .msbFirst => (List.range 8).map fun k => b.getLsbD (7 - k)
  | .lsbFirst => (List.range 8).map fun k => b.getLsbD k

/-- The bits of one event on `sdata`: only a `Byte` event carries any (42_transmitter.md R143). -/
def eventBits (order : BitOrder) : LinkEvent → List Bool
  | .assert => []
  | .byte b => byteBits order b
  | .deassert => []

/-- The bits a list of events puts on `sdata` while `cs_n = 0` (42_transmitter.md R143). -/
def serialBits (order : BitOrder) (l : List LinkEvent) : List Bool := l.flatMap (eventBits order)

/-- The level of `cs_n` after one event (42_transmitter.md R140). -/
def selectLevel (level : Bool) : LinkEvent → Bool
  | .assert => false
  | .byte _ => level
  | .deassert => true

/-- The level of `cs_n` after a list of events that starts at the idle level 1 (42_transmitter.md R140, R142). -/
def selectLevelAfter (l : List LinkEvent) : Bool := l.foldl selectLevel true

end Sys2Proof.Machine
end

