-- ==== Sys2Proof/Machine/Commands.lean ====
section
/-! DEFINITION. The five commands (spec/41_commands.md R121 to R125), each inside the frame of R120. "Each command first
makes its register update and then transmits." -/

namespace Sys2Proof.Machine

/-- INIT (41_commands.md R121): `LINK_READY <- 1`, `cs_n <- 1`; it emits nothing and is "the one command allowed while
`LINK_READY = 0`". -/
def execInit (_arg : BitVec 32) (s : State) : Host.Outcome State Fault Refusal :=
  unlessEnded s (.next (s.setLinkReady.setSelect true))

/-- OUTPUT_ON (41_commands.md R122). -/
def execOutputOn (arg : BitVec 32) (s : State) : Host.Outcome State Fault Refusal :=
  whenLinkReady (encode (.outputOn arg)) s fun s => transmit (s.setCtrl (clearDisable s.cfg s.ctrl))

/-- OUTPUT_OFF (41_commands.md R123). -/
def execOutputOff (arg : BitVec 32) (s : State) : Host.Outcome State Fault Refusal :=
  whenLinkReady (encode (.outputOff arg)) s fun s => transmit (s.setCtrl (setDisable s.cfg s.ctrl))

/-- SET_FREQ's register update: `PAYLOAD <- ENCODE(f)` (41_commands.md R124). Only an out-of-domain operand takes a
draw, a fresh one each time (40_encoder.md R106, 92_eei_decisions.md D27). -/
def loadFrequency (f : FreqOperand) (s : State) : State :=
  let loaded := s.setPayload (encodeFrequency s.cfg.markerMode f (Config.freeTuningWord s.draws))
  if (domainVal f).isSome then loaded else loaded.countDraw

/-- SET_FREQ (41_commands.md R124). -/
def execSetFreq (f : FreqOperand) (s : State) : Host.Outcome State Fault Refusal :=
  whenLinkReady (encode (.setFreq f)) s fun s => transmit (loadFrequency f s)

/-- SET_WAVE (41_commands.md R125): the code is not validated. -/
def execSetWave (unused : BitVec 24) (code : Byte) (s : State) : Host.Outcome State Fault Refusal :=
  whenLinkReady (encode (.setWave unused code)) s fun s => transmit (s.setCtrl (setWaveform s.cfg code s.ctrl))

end Sys2Proof.Machine
end

