-- ==== Sys2Proof/Machine/Dispatch.lean ====
section
/-! DEFINITION. exec: one arm per constructor of Instr (spec/41_commands.md R120, `case OP of`). -/

namespace Sys2Proof.Machine

def exec (i : Instr) (s : State) : Host.Outcome State Fault Refusal :=
  match i with
  | .init arg => Sys2Proof.Machine.execInit arg s
  | .outputOn arg => Sys2Proof.Machine.execOutputOn arg s
  | .outputOff arg => Sys2Proof.Machine.execOutputOff arg s
  | .setFreq f => Sys2Proof.Machine.execSetFreq f s
  | .setWave unused code => Sys2Proof.Machine.execSetWave unused code s

end Sys2Proof.Machine
end

