-- ==== Sys2Proof/Machine/Intake.lean ====
section
/-! DEFINITION. How the block takes the host's next command (spec/41_commands.md R120, spec/60_exceptions.md R168,
spec/20_memory.md R50): the steps around the meaning of a command. -/

namespace Sys2Proof.Machine

/-- One command that the host offered, by the checks of 41_commands.md R120 that come before the command itself: a
reserved word is refused, whatever the link's state (60_exceptions.md R168). -/
def runCommand (run : Instr → State → Result) (cmd : Command) (s : State) : Result :=
  match decode cmd with
  | .command i => run i s
  | .reserved => refuseReserved cmd s

/-- What the block does with the command offered to it, if there is one: first the ended run (41_commands.md R120), then
the command. With no command offered the block waits and nothing changes (log 8). -/
def takeOffered (run : Instr → State → Result) (offered : Option Command) (s : State) : Result :=
  unlessEnded s
    (match offered with
    | none => .next s
    | some cmd => runCommand run cmd s)

/-- One step: the oldest command of the queue is offered, and leaves the queue. -/
def takeCommand (run : Instr → State → Result) (s : State) : Result :=
  takeOffered run s.pending.head? (s.withPending s.pending.tail)

/-- The host offers `cmd` before everything else it has offered. -/
def State.offerFirst (s : State) (cmd : Command) : State := s.withPending (cmd :: s.pending)

end Sys2Proof.Machine
end

