-- ==== Sys2Proof/Machine/Step.lean ====
section
/-! DEFINITION. The step (spec/00_scope.md R5) and where the host places the next command. -/

namespace Sys2Proof.Machine

/-- One step of the block: one command, atomically (00_scope.md R5, 41_commands.md R120). -/
def step (s : State) : Host.Outcome State Fault Refusal := takeCommand exec s

/-- `s` with the command word `w` first in the host's queue, so that the next step runs it (log 8, log 12). -/
def State.withFetchWord (s : State) (nbits w : Nat) : State := s.offerFirst (.word (tableWord nbits w))

end Sys2Proof.Machine
end

