-- ==== Sys2Proof/Machine/Assembler.lean ====
section
/-! DEFINITION. The assembler text of the commands and the shape pseudo-instructions (spec/30_encoding.md R71, R72).
Text is a list of characters. What R71 leaves open (the letters of a hexadecimal digit, the form of a decimal) is
log 16. -/

namespace Sys2Proof.Machine

/-- A line of assembler (30_encoding.md R71, R72). -/
inductive AsmLine where
  | init
  | outputOn
  | outputOff
  /-- `set_freq 0xHHHHHHHH` -/
  | setFreqPattern (a : BitVec 32)
  /-- `set_freq` with a decimal -/
  | setFreqDecimal (f : ExactFreq)
  /-- `set_wave 0xHH` -/
  | setWaveCode (code : Byte)
  /-- `set_wave sine`, `set_wave triangle`, `set_wave square` -/
  | setWaveShape (shape : Shape)
  deriving DecidableEq, Repr

/-- A binary32 pattern from its fields (30_encoding.md R64). -/
def binary32Pattern (sign : Bool) (exponent fraction : Nat) : BitVec 32 :=
  BitVec.ofBool sign ++ (BitVec.ofNat 8 exponent ++ BitVec.ofNat 23 fraction)

/-- The binary32 pattern of a magnitude of `n` units of `2^(-149)`, if there is one: below `2^23` a subnormal, else
`2^23 <= n / 2^(e-1) < 2^24` with nothing lost. -/
def binary32OfUnits (sign : Bool) (n : Nat) : Option (BitVec 32) :=
  if n < 2 ^ 23 then some (binary32Pattern sign 0 n)
  else
    let e := Nat.log2 n - 22
    if e ≤ 254 ∧ n % 2 ^ (e - 1) = 0 then some (binary32Pattern sign e (n / 2 ^ (e - 1) - 2 ^ 23)) else none

/-- The pattern that is exactly `f`: "A decimal `<f>` must be exactly representable in binary32. An assembler rejects
one that is not. It does not round silently." (30_encoding.md R71). Zero is `0x00000000` (log 16). -/
def binary32Of (f : ExactFreq) : Option (BitVec 32) :=
  if f.num.natAbs * 2 ^ 149 % f.den = 0 then
    binary32OfUnits (decide (f.num < 0)) (f.num.natAbs * 2 ^ 149 / f.den)
  else none

/-- The command of a line, or none for a decimal the assembler rejects. "`ARG` bits that a command ignores are assembled
as 0" (30_encoding.md R71); a shape becomes its code, `ARG = zext_32(code)` (R72). -/
def assemble (cfg : Config) : AsmLine → Option Instr
  | .init => some (.init 0#32)
  | .outputOn => some (.outputOn 0#32)
  | .outputOff => some (.outputOff 0#32)
  | .setFreqPattern a => some (.setFreq (.binary32 a))
  | .setFreqDecimal f => (binary32Of f).map fun a => .setFreq (.binary32 a)
  | .setWaveCode code => some (.setWave 0#24 code)
  | .setWaveShape shape => some (.setWave 0#24 (cfg.waveCode shape))

/-- The value of a decimal digit. -/
def decimalDigit (c : Char) : Option Nat :=
  if 48 ≤ c.toNat ∧ c.toNat ≤ 57 then some (c.toNat - 48) else none

/-- The value of a hexadecimal digit, in either case of letter. -/
def hexDigit (c : Char) : Option Nat :=
  if 97 ≤ c.toNat ∧ c.toNat ≤ 102 then some (c.toNat - 87)
  else if 65 ≤ c.toNat ∧ c.toNat ≤ 70 then some (c.toNat - 55)
  else decimalDigit c

/-- A number in some base, read most significant digit first from `acc`. -/
def readDigits (digit : Char → Option Nat) (base : Nat) : Nat → List Char → Option Nat
  | acc, [] => some acc
  | acc, c :: rest =>
    match digit c with
    | some d => readDigits digit base (acc * base + d) rest
    | none => none

/-- `0x` and exactly `n` hexadecimal digits. -/
def readHex (n : Nat) : List Char → Option Nat
  | '0' :: 'x' :: digits => if digits.length = n then readDigits hexDigit 16 0 digits else none
  | _ => none

/-- Digits, and if there is a point, digits after it. -/
def readUnsignedDecimal (t : List Char) : Option ExactFreq :=
  let whole := t.takeWhile (· != '.')
  match whole, t.dropWhile (· != '.') with
  | [], _ => none
  | _, [] => (readDigits decimalDigit 10 0 whole).map fun n => { num := n, den := 1 }
  | _, [_] => none
  | _, _ :: part => (readDigits decimalDigit 10 0 (whole ++ part)).map fun n =>
    { num := n, den := 10 ^ part.length, den_pos := Nat.pow_pos (by decide) }

/-- A decimal, with a sign or without. -/
def readDecimal : List Char → Option ExactFreq
  | '-' :: t => (readUnsignedDecimal t).map fun f => { f with num := -f.num }
  | t => readUnsignedDecimal t

/-- The shape of a name (30_encoding.md R72). -/
def readShape (t : List Char) : Option Shape :=
  if t = "sine".toList then some .sine
  else if t = "triangle".toList then some .triangle
  else if t = "square".toList then some .square
  else none

/-- `<f>`: a pattern if it begins `0x`, else a decimal (30_encoding.md R71). -/
def readFrequency (t : List Char) : Option AsmLine :=
  match t with
  | '0' :: 'x' :: _ => (readHex 8 t).map fun n => .setFreqPattern (BitVec.ofNat 32 n)
  | _ => (readDecimal t).map .setFreqDecimal

/-- `<code>`: `0xHH` or a shape name (30_encoding.md R71). -/
def readWave (t : List Char) : Option AsmLine :=
  match readShape t with
  | some shape => some (.setWaveShape shape)
  | none => (readHex 2 t).map fun n => .setWaveCode (BitVec.ofNat 8 n)

/-- "`;` starts a comment" (30_encoding.md R71). -/
def dropComment (t : List Char) : List Char := t.takeWhile (· != ';')

/-- The words of a line, which spaces and tabs separate. -/
def wordsOf (t : List Char) : List (List Char) :=
  (t.foldr (fun c acc =>
    if c = ' ' ∨ c = '\t' then [] :: acc
    else match acc with
      | [] => [[c]]
      | w :: rest => (c :: w) :: rest) [[]]).filter (· != [])

/-- One line of text: no command (blank or comment), one command, or none for what R71 does not admit. -/
def parseLine (t : List Char) : Option (List AsmLine) :=
  match wordsOf (dropComment t) with
  | [] => some []
  | [w] =>
    if w = "init".toList then some [.init]
    else if w = "output_on".toList then some [.outputOn]
    else if w = "output_off".toList then some [.outputOff]
    else none
  | [w, x] =>
    if w = "set_freq".toList then (readFrequency x).map ([·])
    else if w = "set_wave".toList then (readWave x).map ([·])
    else none
  | _ => none

/-- The commands of some lines, in order, or none if one is rejected. -/
def assembleLines (cfg : Config) : List AsmLine → Option (List Command)
  | [] => some []
  | line :: rest =>
    match assemble cfg line, assembleLines cfg rest with
    | some i, some cmds => some (encode i :: cmds)
    | _, _ => none

/-- The commands of a text, "one command ... on a line" (30_encoding.md R71). -/
def assembleText (cfg : Config) : List (List Char) → Option (List Command)
  | [] => some []
  | t :: rest =>
    match (parseLine t).bind (assembleLines cfg), assembleText cfg rest with
    | some cmds, some more => some (cmds ++ more)
    | _, _ => none

end Sys2Proof.Machine
end

