-- ==== Sys2Proof/Machine/Serial.lean ====
section
/-! DEFINITION. The bit-time view of a cycle-level implementation: the hidden state of a transaction in progress
(spec/10_state.md R33), the ports (spec/30_encoding.md R75) with power-on reset by `rst_n` (spec/70_reset_and_hazards.md
R180) and the wait for `cmd_ready` (R184). It is no part of State, which by R33 has no such state. One cycle is one
bit-time, or one accepted command; `sclk`, delays and gaps are left out (log 17). -/

namespace Sys2Proof.Machine

/-- "the busy condition, the position within the 48 bits, and the snapshot of `CTRL` and `PAYLOAD` being sent"
(10_state.md R33). -/
structure Shifter where
  busy : Bool
  position : Nat
  snapshot : Frame
  deriving DecidableEq, Repr

/-- No transaction in progress. -/
def Shifter.idle : Shifter := { busy := false, position := 0, snapshot := 0#48 }

/-- "take its snapshot at the start of the transaction" (10_state.md R33). -/
def Shifter.start (c : ControlWord) (p : Payload) : Shifter :=
  { busy := true, position := 0, snapshot := frameOf c p }

/-- The bit of the frame that bit-time `k` carries: bit 47 first under MSB_FIRST; under LSB_FIRST the bytes keep their
order and each goes `b[0]` first (42_transmitter.md R143). -/
def frameBit (order : BitOrder) (frame : Frame) (k : Nat) : Bool :=
  match order with
  | .msbFirst => frame.getLsbD (47 - k)
  | .lsbFirst => frame.getLsbD (40 - 8 * (k / 8) + k % 8)

/-- The shifter's part of port `cmd_ready`: 0 until the transaction's `Deassert` (30_encoding.md R75). -/
def Shifter.cmdReady (sh : Shifter) : Bool := !sh.busy

/-- The shifter's part of port `cs_n`: 0 during the transaction and at no other time (42_transmitter.md R141). -/
def Shifter.csN (sh : Shifter) : Bool := !sh.busy

/-- The shifter's part of port `sdata`: while `cs_n = 1` the model does not define its level (42_transmitter.md R142). -/
def Shifter.sdata (order : BitOrder) (sh : Shifter) : Option Bool :=
  if sh.busy then some (frameBit order sh.snapshot sh.position) else none

/-- One bit-time; the 48th ends the transaction. -/
def Shifter.tick (sh : Shifter) : Shifter :=
  if sh.busy then
    if sh.position + 1 < 48 then { sh with position := sh.position + 1 } else Shifter.idle
  else sh

/-- `n` bit-times. -/
def Shifter.ticks : Nat → Shifter → Shifter
  | 0, sh => sh
  | n + 1, sh => Shifter.ticks n sh.tick

/-- The block with its hidden state. -/
structure SerialBlock where
  regs : State
  shifter : Shifter
  deriving DecidableEq, Repr

/-- The input ports in one cycle (30_encoding.md R75). -/
structure PortInputs where
  /-- `rst_n`: false is 0, power-on reset -/
  rstN : Bool
  /-- `cmd_valid`: the host offers `cmd` -/
  cmdValid : Bool
  /-- `cmd`: the command word, or under RATIONAL the exact SET_FREQ in its place (30_encoding.md R63) -/
  cmd : Command
  deriving DecidableEq, Repr

/-- The output ports in one cycle (30_encoding.md R75), `sclk` left out (log 17). -/
structure PortOutputs where
  /-- `cmd_ready` -/
  cmdReady : Bool
  /-- `cs_n` -/
  csN : Bool
  /-- `sdata`, where the model defines its level (42_transmitter.md R142) -/
  sdata : Option Bool
  deriving DecidableEq, Repr

/-- The command the host offers at the ports: `cmd` while `cmd_valid` is 1 (30_encoding.md R75). -/
def PortInputs.offered (p : PortInputs) : Option Command := if p.cmdValid then some p.cmd else none

/-- The output ports of the block under the given inputs: BIT_ORDER is the machine's (20_memory.md R46). While `rst_n` is
low the block accepts no command and `cs_n` has its reset value 1 (log 22). -/
def SerialBlock.outputs (p : PortInputs) (b : SerialBlock) : PortOutputs :=
  if p.rstN then
    { cmdReady := b.shifter.cmdReady, csN := b.shifter.csN, sdata := b.shifter.sdata b.regs.cfg.bitOrder }
  else { cmdReady := false, csN := true, sdata := none }

/-- "The block accepts `cmd` in the cycle where `cmd_valid = cmd_ready = 1`" (30_encoding.md R75). -/
def SerialBlock.accepts (p : PortInputs) (b : SerialBlock) : Bool := p.cmdValid && (b.outputs p).cmdReady

/-- Power-on reset of the block: every register at its reset value (70_reset_and_hazards.md R180), and so no transaction in
progress, `cs_n` being 1 (log 22). -/
def SerialBlock.reset (b : SerialBlock) : SerialBlock := { regs := powerOn b.regs, shifter := .idle }

/-- The block after a command's step from an idle shifter: if the step sent a transaction, its bits go out from here on,
and the snapshot is taken now (10_state.md R33). -/
def SerialBlock.settle (b : SerialBlock) : Result → Host.Outcome SerialBlock Fault Refusal
  | .next t =>
    .next { regs := t, shifter := if t.link = b.regs.link then b.shifter else Shifter.start t.ctrl t.payload }
  | .fault r => .fault r
  | .refused r => .refused r

/-- One bit-time of the block. -/
def SerialBlock.tick (b : SerialBlock) : SerialBlock := { b with shifter := b.shifter.tick }

/-- One cycle at the ports. Low `rst_n` resets the block whatever it is doing (70_reset_and_hazards.md R180). Else an idle
block takes the offered command, if there is one, and while a transaction is in progress none is accepted (R184). -/
def SerialBlock.clock (p : PortInputs) (b : SerialBlock) : Host.Outcome SerialBlock Fault Refusal :=
  if p.rstN then
    if b.shifter.cmdReady then b.settle (takeOffered exec p.offered b.regs) else .next b.tick
  else .next b.reset

/-- A cycle for each of the inputs, stopping at the first fault or refusal. -/
def SerialBlock.clocks : List PortInputs → SerialBlock → Host.Outcome SerialBlock Fault Refusal
  | [], b => .next b
  | p :: ps, b =>
    match b.clock p with
    | .next b' => SerialBlock.clocks ps b'
    | .fault r => .fault r
    | .refused r => .refused r

/-- One cycle of a block whose host drives the ports from the queue `pending` and leaves `rst_n` high: an offered command
"is held. It is not lost, merged or reordered, and it is accepted after `Deassert`" (70_reset_and_hazards.md R184). -/
def SerialBlock.cycle (b : SerialBlock) : Host.Outcome SerialBlock Fault Refusal :=
  if b.shifter.cmdReady then b.settle (step b.regs) else .next b.tick

/-- `n` cycles, stopping at the first fault or refusal. -/
def SerialBlock.cycles : Nat → SerialBlock → Host.Outcome SerialBlock Fault Refusal
  | 0, b => .next b
  | n + 1, b =>
    match b.cycle with
    | .next b' => SerialBlock.cycles n b'
    | .fault r => .fault r
    | .refused r => .refused r

end Sys2Proof.Machine
end

