-- ==== Sys2Proof/Safety.lean ====
section
/-! DEFINITION. What is observed of a run and what a successful run is (spec/41_commands.md R130), and the invariants
claims use. -/

namespace Sys2Proof.Machine

/-- The list is a sequence of whole transactions, each `Assert`, six `Byte`, `Deassert` (20_memory.md R47, R50;
42_transmitter.md R140, R141). -/
def wholeTransactions : List LinkEvent → Bool
  | [] => true
  | .assert :: .byte _ :: .byte _ :: .byte _ :: .byte _ :: .byte _ :: .byte _ :: .deassert :: rest =>
    wholeTransactions rest
  | _ => false

/-- What holds between commands of every run. -/
structure Inv (s : State) : Prop where
  /-- the parameters meet 00_scope.md R6 -/
  legal : s.cfg.legal = true
  /-- "Between transactions, `cs_n = 1`" (42_transmitter.md R142) -/
  selectHigh : s.csN = true
  /-- every transaction is whole (20_memory.md R47, R50) -/
  framed : wholeTransactions s.link = true
  /-- nothing was sent before INIT (70_reset_and_hazards.md R182) -/
  silentBeforeInit : s.linkReady = false → s.link = []

/-- What the commands never do to CTRL's bits outside DISABLE and WAVE (10_state.md R22; 41_commands.md R125). -/
structure FixedFlags (s : State) : Prop where
  /-- "no command writes a bit of `CTRL_HI` other than DISABLE" (10_state.md R22) -/
  high : ∀ i, 8 ≤ i → i < 16 → i ≠ s.cfg.disableBit.val → s.ctrl.getLsbD i = s.cfg.ctrlInit.getLsbD i
  /-- "no later `SET_WAVE` clears" a bit outside WAVE_CLEAR_MASK (41_commands.md R125) -/
  low : ∀ i, i < 8 → i ≠ s.cfg.disableBit.val → s.cfg.waveClearMask.getLsbD i = false →
    s.cfg.ctrlInit.getLsbD i = true → s.ctrl.getLsbD i = true

/-- What holds of the bit-time view in every cycle: the registers keep their invariant, and a transaction in progress is at
one of the 48 bits of the frame of CTRL and PAYLOAD as they stand (10_state.md R33; no command is accepted before
`Deassert`). -/
structure SerialInv (b : SerialBlock) : Prop where
  regs : Inv b.regs
  position : b.shifter.busy = true → b.shifter.position < 48
  snapshot : b.shifter.busy = true → b.shifter.snapshot = frameOf b.regs.ctrl b.regs.payload

/-- Every command the host has offered is one its `FREQ_FORMAT` has (30_encoding.md R63, log 10). -/
def State.hostKeepsFormat (s : State) : Bool := s.pending.all fun c => c.inFormat s.cfg.freqFormat

/-- The link events of one step from `s` to `t` (00_scope.md R5: a step returns "the next state together with the list of
link events the command emitted"). -/
def stepEvents (s t : State) : List LinkEvent := t.link.drop s.link.length

/-- The bits put on `sdata` since power-on, in the machine's BIT_ORDER (42_transmitter.md R143). -/
def State.bitsSent (s : State) : List Bool := serialBits s.cfg.bitOrder s.link

/-- 60_exceptions.md R164's closed list of fault reasons: "exactly one member". -/
inductive FaultReason where
  /-- `NOT_INITIALISED` -/
  | notInitialised
  deriving DecidableEq, Repr

/-- 60_exceptions.md R164's closed list of refusal reasons: "exactly one member". -/
inductive RefusalReason where
  /-- `RESERVED_OPCODE` -/
  | reservedOpcode
  deriving DecidableEq, Repr

/-- The three outcomes of a step in the spec's own form (60_exceptions.md R164). -/
inductive StepOutcome where
  /-- `Next(state, events)` -/
  | next (s : State) (events : List LinkEvent)
  /-- `Fault(reason)` -/
  | fault (reason : FaultReason)
  /-- `Refused(reason)` -/
  | refused (reason : RefusalReason)
  deriving DecidableEq, Repr

/-- The step from `s` in the form of 60_exceptions.md R164, or none where there is no step (R167, log 7). -/
def stepOutcome (s : State) : Option StepOutcome :=
  match step s with
  | .next t => some (.next t (stepEvents s t))
  | .fault (.notInitialised _ _) => some (.fault .notInitialised)
  | .fault .runEnded => none
  | .refused (.reservedOpcode _ _) => some (.refused .reservedOpcode)
  | .refused _ => none

/-- `n` steps, stopping at the first fault or refusal. -/
def runFor : Nat → State → Host.Outcome State Fault Refusal
  | 0, s => .next s
  | n + 1, s =>
    match step s with
    | .next t => runFor n t
    | .fault r => .fault r
    | .refused r => .refused r

/-- A run of a list of commands from power-on reset (41_commands.md R130). -/
def runCommands (s : State) (cmds : List Command) : Host.Outcome State Fault Refusal :=
  runFor cmds.length ((powerOn s).withPending cmds)

/-- "The run's observation has three parts" (41_commands.md R130). -/
structure Observation where
  ctrl : ControlWord
  payload : Payload
  csN : Bool
  linkReady : Bool
  events : List LinkEvent
  faulted : Bool
  refused : Bool
  deriving DecidableEq, Repr

/-- What is observed of a final state (41_commands.md R130). -/
def State.observe (s : State) : Observation :=
  { ctrl := s.ctrl, payload := s.payload, csN := s.csN, linkReady := s.linkReady, events := s.link,
    faulted := s.faulted, refused := s.refused }

/-- The final state of a run (41_commands.md R130): a fault or a refusal carries it, its mark set. The stuck state has
none of its own. -/
def finalState : Host.Outcome State Fault Refusal → Option State
  | .next s => some s
  | .fault (.notInitialised _ s) => some s
  | .fault .runEnded => none
  | .refused (.reservedOpcode _ s) => some s
  | .refused _ => none

/-- "A run that ends on a fault or a refusal is not a successful run." (41_commands.md R130) -/
def successful : Host.Outcome State Fault Refusal → Bool
  | .next s => !s.faulted && !s.refused
  | .fault _ => false
  | .refused _ => false

/-- A command that transmits: any of the five but INIT (41_commands.md R120). -/
def transmits : Instr → Bool
  | .init _ => false
  | .outputOn _ => true
  | .outputOff _ => true
  | .setFreq _ => true
  | .setWave _ _ => true

end Sys2Proof.Machine
end

