-- ==== Sys2Proof/Certificates/Slice0/Obligations.lean ====
section
/-! DEFINITION. The statements for the provers. Each docstring says which rule of spec/ it formalises. A statement about
a free value (a draw) holds whatever that value is. -/

open Sys2Proof Sys2Proof.Machine

/-! ### Reset -/

/-- R180's table, of power-on reset from any state and of the first reset; the payload is some draw (R25), and reset
emits no event (R181). -/
def Obligations.ResetLeavesSpecValues : Prop :=
  ∀ r : State, (r = State.reset ∨ ∃ s : State, r = powerOn s) →
    r.ctrl = r.cfg.ctrlInit ∧ (∃ n, r.payload = Config.freePayload n) ∧ r.csN = true ∧ r.linkReady = false ∧
    r.faulted = false ∧ r.refused = false ∧ r.link = [] ∧
    r.outputState = (if r.cfg.ctrlInit.getLsbD r.cfg.disableBit.val then .disabled else .enabled)

/-- Log 1 and log 3: the machine's parameters meet R6 (items 1 to 3) and its decided ones are the spec's defaults. -/
def Obligations.MachineParametersMeetConstraints : Prop :=
  (∀ shape, Config.machine.waveCode shape &&& ~~~Config.machine.waveClearMask = 0#8) ∧
  (Config.machine.disableBit.val < 8 →
    Config.machine.waveClearMask.getLsbD Config.machine.disableBit.val = false ∧
    ∀ shape, (Config.machine.waveCode shape).getLsbD Config.machine.disableBit.val = false) ∧
  (∀ shape shape', Config.machine.waveCode shape = Config.machine.waveCode shape' → shape = shape') ∧
  Config.machine.markerMode = .perHalf ∧ Config.machine.freqFormat = .binary32 ∧ Config.machine.bitOrder = .msbFirst

/-! ### Decoding -/

/-- Words written out from R60 and R61 decode to the command they stand for. -/
def Obligations.TableWordsDecode : Prop :=
  decodeTableWord 40 0x100000000 = some (.init 0#32) ∧
  decodeTableWord 40 0x2DEADBEEF = some (.outputOn 0xDEADBEEF#32) ∧
  decodeTableWord 40 0x300000000 = some (.outputOff 0#32) ∧
  decodeTableWord 40 0x4447A0000 = some (.setFreq (.binary32 0x447A0000#32)) ∧
  decodeTableWord 40 0x5FFFFFF28 = some (.setWave 0xFFFFFF#24 0x28#8) ∧
  decodeTableWord 40 0x000000000 = none ∧ decodeTableWord 40 0x600000000 = none ∧
  decodeTableWord 40 0xF00000000 = none

/-- Decoding the encoding of any instruction, of either FREQ_FORMAT, gives it back: no operand bit is dropped, the ignored
ones included. -/
def Obligations.EncodeThenDecode : Prop :=
  ∀ i : Instr, decode (encode i) = .command i

/-- Each command has one meaning: what decodes to an instruction is that instruction's encoding, and the two exist under the
same FREQ_FORMATs (R63). -/
def Obligations.DecodeThenEncode : Prop :=
  ∀ (cmd : Command) (i : Instr), decode cmd = .command i →
    encode i = cmd ∧ ∀ fmt, cmd.inFormat fmt = i.inFormat fmt

/-- What the spec derives as R73 from R60 to R62: a word is one of the five commands or RESERVED, by `OP = word / 2^32` alone. -/
def Obligations.DecodingReadsOpAlone : Prop :=
  ∀ w : CommandWord,
    (decodeWord w = .reserved ↔ w.toNat / 2 ^ 32 = 0 ∨ 6 ≤ w.toNat / 2 ^ 32) ∧
    (w.toNat / 2 ^ 32 = 1 → ∃ arg, decodeWord w = .command (.init arg) ∧ arg.toNat = w.toNat % 2 ^ 32) ∧
    (w.toNat / 2 ^ 32 = 2 → ∃ arg, decodeWord w = .command (.outputOn arg) ∧ arg.toNat = w.toNat % 2 ^ 32) ∧
    (w.toNat / 2 ^ 32 = 3 → ∃ arg, decodeWord w = .command (.outputOff arg) ∧ arg.toNat = w.toNat % 2 ^ 32) ∧
    (w.toNat / 2 ^ 32 = 4 →
      ∃ a, decodeWord w = .command (.setFreq (.binary32 a)) ∧ a.toNat = w.toNat % 2 ^ 32) ∧
    (w.toNat / 2 ^ 32 = 5 →
      ∃ unused code, decodeWord w = .command (.setWave unused code) ∧ code.toNat = w.toNat % 2 ^ 8)

/-! ### The step around a command -/

/-- A step runs the decoded instruction: it takes the oldest offered command off the queue and is exec of what that
command decodes to. -/
def Obligations.StepRunsDecodedCommand : Prop :=
  ∀ (s : State) (cmd : Command) (rest : List Command) (i : Instr),
    s.pending = cmd :: rest → decode cmd = .command i → step s = exec i { s with pending := rest }

/-- R62 and R166: a reserved word is refused; only REFUSED is written, no event is emitted and the word is recorded. -/
def Obligations.ReservedWordRefused : Prop :=
  ∀ (s : State) (w : CommandWord) (rest : List Command),
    s.faulted = false → s.refused = false → s.pending = .word w :: rest →
    (w.toNat / 2 ^ 32 = 0 ∨ 6 ≤ w.toNat / 2 ^ 32) →
    step s = .refused (.reservedOpcode (.word w) { s with pending := rest, refused := true })

/-- R165 (final state: the command is taken off the queue by the step, not here): before INIT every transmitting command faults; only FAULTED is written, no event is emitted and the command is
recorded. -/
def Obligations.TransmitBeforeInitFaults : Prop :=
  ∀ (s : State) (i : Instr), s.faulted = false → s.refused = false → s.linkReady = false →
    (∀ arg, i ≠ .init arg) → exec i s = .fault (.notInitialised (encode i) { s with faulted := true })

/-- R167, where "no further step" is the model's stuck state `runEnded` (log 7, DESIGN CHOICE): after a fault or a
refusal there is no step, for any command, INIT included; and no next state has a mark set. -/
def Obligations.EndedRunHasNoStep : Prop :=
  (∀ s : State, s.faulted = true ∨ s.refused = true →
    step s = .fault .runEnded ∧ ∀ i, exec i s = .fault .runEnded) ∧
  (∀ s t : State, step s = .next t → t.faulted = false ∧ t.refused = false)

/-- R168, with log 7's stuck state for "no step": the checks in order. Of a step with a command offered: an ended run has no step; then a reserved word is
refused whether or not the link is ready; then a transmitting command faults while it is not. -/
def Obligations.ChecksRunInOrder : Prop :=
  ∀ (s : State) (cmd : Command) (rest : List Command), s.pending = cmd :: rest →
    (s.faulted = true ∨ s.refused = true → step s = .fault .runEnded) ∧
    (s.faulted = false → s.refused = false → decode cmd = .reserved → ∃ t, step s = .refused (.reservedOpcode cmd t)) ∧
    (∀ i, s.faulted = false → s.refused = false → decode cmd = .command i → (∀ arg, i ≠ .init arg) →
      s.linkReady = false → ∃ t, step s = .fault (.notInitialised cmd t)) ∧
    (∀ i, s.faulted = false → s.refused = false → decode cmd = .command i →
      (s.linkReady = true ∨ ∃ arg, i = .init arg) → ∃ t, step s = .next t)

/-- The model's choice (log 8): with no command offered, a running block waits and nothing changes. -/
def Obligations.NoCommandOfferedWaits : Prop :=
  ∀ s : State, s.faulted = false → s.refused = false → s.pending = [] → step s = .next s

/-! ### The five commands -/

/-- R121: INIT sets LINK_READY and cs_n to 1, whatever LINK_READY is and whatever its ARG, emits nothing and writes
nothing else. -/
def Obligations.InitSetsUpLink : Prop :=
  ∀ (s : State) (arg : BitVec 32), s.faulted = false → s.refused = false →
    exec (.init arg) s = .next { s with linkReady := true, csN := true }

/-- R122: OUTPUT_ON completes whenever the link is ready and faults while it is not (R165): it clears `CTRL[DISABLE_BIT]`, keeps every other bit, and sends
one transaction of the new CTRL and the unchanged PAYLOAD. ARG is ignored. -/
def Obligations.OutputOnClearsDisableBit : Prop :=
  ∀ (s : State) (arg : BitVec 32), s.faulted = false → s.refused = false →
    (s.linkReady = true → ∃ t, exec (.outputOn arg) s = .next t ∧
      (∀ k, k < 16 → t.ctrl.getLsbD k = if k = s.cfg.disableBit.val then false else s.ctrl.getLsbD k) ∧
      t.outputState = .enabled ∧ t.payload = s.payload ∧ t.link = s.link ++ transaction t.ctrl s.payload ∧
      t.csN = true ∧ t.linkReady = true ∧ t.faulted = false ∧ t.refused = false ∧ t.pending = s.pending ∧
      t.draws = s.draws ∧ t.cfg = s.cfg) ∧
    (s.linkReady = false →
      exec (.outputOn arg) s = .fault (.notInitialised (encode (.outputOn arg)) { s with faulted := true }))

/-- R123: OUTPUT_OFF, the same with the bit set; the fault while the link is not ready included. -/
def Obligations.OutputOffSetsDisableBit : Prop :=
  ∀ (s : State) (arg : BitVec 32), s.faulted = false → s.refused = false →
    (s.linkReady = true → ∃ t, exec (.outputOff arg) s = .next t ∧
      (∀ k, k < 16 → t.ctrl.getLsbD k = if k = s.cfg.disableBit.val then true else s.ctrl.getLsbD k) ∧
      t.outputState = .disabled ∧ t.payload = s.payload ∧ t.link = s.link ++ transaction t.ctrl s.payload ∧
      t.csN = true ∧ t.linkReady = true ∧ t.faulted = false ∧ t.refused = false ∧ t.pending = s.pending ∧
      t.draws = s.draws ∧ t.cfg = s.cfg) ∧
    (s.linkReady = false →
      exec (.outputOff arg) s = .fault (.notInitialised (encode (.outputOff arg)) { s with faulted := true }))

/-- R103 and R105, with R124, R104, R67 and the markers of R68: SET_FREQ of an operand in the domain completes; the four payload bytes are those of
`W = floor(2^28 * v / F_REF) mod 2^28`, the markers added above each half; one transaction sends them with CTRL
unchanged. -/
def Obligations.SetFreqLoadsTuningWord : Prop :=
  ∀ (s : State) (f : FreqOperand) (v : ExactFreq), s.faulted = false → s.refused = false → s.linkReady = true →
    operandVal f = some v → 0 ≤ v.num →
    ∃ t, exec (.setFreq f) s = .next t ∧
      (∀ w m0 m1 : Nat, w = 2 ^ 28 * v.num.toNat / (25000000 * v.den) % 2 ^ 28 →
        m0 = (match s.cfg.markerMode with | .perHalf => 0x40 | .bothSlot0 => 0x40 | .bothSlot1 => 0x80) →
        m1 = (match s.cfg.markerMode with | .perHalf => 0x80 | .bothSlot0 => 0x40 | .bothSlot1 => 0x80) →
        (t.payload.extractLsb' 24 8).toNat = m0 + w / 2 ^ 22 ∧
        (t.payload.extractLsb' 16 8).toNat = w / 2 ^ 14 % 2 ^ 8 ∧
        (t.payload.extractLsb' 8 8).toNat = m1 + w / 2 ^ 8 % 2 ^ 6 ∧
        (t.payload.extractLsb' 0 8).toNat = w % 2 ^ 8) ∧
      t.ctrl = s.ctrl ∧ t.link = s.link ++ transaction s.ctrl t.payload ∧
      t.csN = true ∧ t.linkReady = true ∧ t.faulted = false ∧ t.refused = false ∧ t.pending = s.pending ∧
      t.draws = s.draws ∧ t.cfg = s.cfg

/-- R106 and R124: SET_FREQ of an operand outside the domain (no value, or a negative one) completes too. The tuning word
is a draw, which may be any 28-bit value; the layout, the markers and the transaction are as for any other operand, and the
next draw is a fresh one. The model's own choices in it: that the draw is the one the counter names and that the counter
advances by one (log 5, DESIGN CHOICE), and that an exact operand, here a negative one, is taken whatever FREQ_FORMAT says
(log 10, DESIGN CHOICE; a denominator is never 0, by its type). -/
def Obligations.SetFreqOutOfDomainDraws : Prop :=
  ∀ (s : State) (f : FreqOperand), s.faulted = false → s.refused = false → s.linkReady = true →
    (∀ v, operandVal f = some v → v.num < 0) →
    ∃ t, exec (.setFreq f) s = .next t ∧
      (∀ w m0 m1 : Nat, w = (Config.freeTuningWord s.draws).toNat →
        m0 = (match s.cfg.markerMode with | .perHalf => 0x40 | .bothSlot0 => 0x40 | .bothSlot1 => 0x80) →
        m1 = (match s.cfg.markerMode with | .perHalf => 0x80 | .bothSlot0 => 0x40 | .bothSlot1 => 0x80) →
        (t.payload.extractLsb' 24 8).toNat = m0 + w / 2 ^ 22 ∧
        (t.payload.extractLsb' 16 8).toNat = w / 2 ^ 14 % 2 ^ 8 ∧
        (t.payload.extractLsb' 8 8).toNat = m1 + w / 2 ^ 8 % 2 ^ 6 ∧
        (t.payload.extractLsb' 0 8).toNat = w % 2 ^ 8) ∧
      t.ctrl = s.ctrl ∧ t.link = s.link ++ transaction s.ctrl t.payload ∧
      t.csN = true ∧ t.linkReady = true ∧ t.faulted = false ∧ t.refused = false ∧ t.pending = s.pending ∧
      t.draws = s.draws + 1 ∧ t.cfg = s.cfg

/-- R125: SET_WAVE completes for every code: the low byte loses the bits of WAVE_CLEAR_MASK and gains those of the code,
the high byte is unchanged, `ARG[31:8]` is ignored, and one transaction is sent; while the link is not ready it
faults. -/
def Obligations.SetWaveReplacesMaskedBits : Prop :=
  ∀ (s : State) (unused : BitVec 24) (code : Byte), s.faulted = false → s.refused = false →
    (s.linkReady = true → ∃ t, exec (.setWave unused code) s = .next t ∧
      (∀ k, k < 8 → t.ctrl.getLsbD k = ((s.ctrl.getLsbD k && !s.cfg.waveClearMask.getLsbD k) || code.getLsbD k)) ∧
      (∀ k, 8 ≤ k → k < 16 → t.ctrl.getLsbD k = s.ctrl.getLsbD k) ∧
      t.payload = s.payload ∧ t.link = s.link ++ transaction t.ctrl s.payload ∧
      t.csN = true ∧ t.linkReady = true ∧ t.faulted = false ∧ t.refused = false ∧ t.pending = s.pending ∧
      t.draws = s.draws ∧ t.cfg = s.cfg) ∧
    (s.linkReady = false →
      exec (.setWave unused code) s =
        .fault (.notInitialised (encode (.setWave unused code)) { s with faulted := true }))

/-- The frame of every command, from every state: what it leaves unchanged. `cs_n` is 1 after each (R147), and the link
only grows, by one transaction of the new registers or, for INIT, by nothing. -/
def Obligations.CommandsLeaveTheRestUnchanged : Prop :=
  ∀ (i : Instr) (s t : State), exec i s = .next t →
    t.cfg = s.cfg ∧ t.pending = s.pending ∧ t.faulted = s.faulted ∧ t.refused = s.refused ∧ t.csN = true ∧
    (match i with
      | .init _ =>
        t.ctrl = s.ctrl ∧ t.payload = s.payload ∧ t.draws = s.draws ∧ t.link = s.link
      | .outputOn _ =>
        (∀ k, k ≠ s.cfg.disableBit.val → t.ctrl.getLsbD k = s.ctrl.getLsbD k) ∧ t.payload = s.payload ∧
        t.linkReady = s.linkReady ∧ t.draws = s.draws ∧ t.link = s.link ++ transaction t.ctrl t.payload
      | .outputOff _ =>
        (∀ k, k ≠ s.cfg.disableBit.val → t.ctrl.getLsbD k = s.ctrl.getLsbD k) ∧ t.payload = s.payload ∧
        t.linkReady = s.linkReady ∧ t.draws = s.draws ∧ t.link = s.link ++ transaction t.ctrl t.payload
      | .setFreq _ =>
        t.ctrl = s.ctrl ∧ t.linkReady = s.linkReady ∧ t.link = s.link ++ transaction t.ctrl t.payload
      | .setWave _ code =>
        (∀ k, 8 ≤ k ∨ (s.cfg.waveClearMask.getLsbD k = false ∧ code.getLsbD k = false) →
          t.ctrl.getLsbD k = s.ctrl.getLsbD k) ∧
        t.payload = s.payload ∧ t.linkReady = s.linkReady ∧ t.draws = s.draws ∧
        t.link = s.link ++ transaction t.ctrl t.payload)

/-- R24, R26 and R30, of whole steps: a step that changes CTRL ran OUTPUT_ON, OUTPUT_OFF or SET_WAVE; one that changes
PAYLOAD ran SET_FREQ; one that changes LINK_READY ran INIT, and no step clears it. -/
def Obligations.RegistersHaveOnlyTheirWriters : Prop :=
  ∀ s t : State, step s = .next t →
    (t.ctrl ≠ s.ctrl → ∃ cmd i, s.pending.head? = some cmd ∧ decode cmd = .command i ∧
      ((∃ arg, i = .outputOn arg) ∨ (∃ arg, i = .outputOff arg) ∨ ∃ unused code, i = .setWave unused code)) ∧
    (t.payload ≠ s.payload → ∃ cmd f, s.pending.head? = some cmd ∧ decode cmd = .command (.setFreq f)) ∧
    (t.linkReady ≠ s.linkReady → t.linkReady = true ∧
      ∃ cmd arg, s.pending.head? = some cmd ∧ decode cmd = .command (.init arg))

/-- R26: SET_FREQ overwrites all of PAYLOAD. Two runs from states that differ in PAYLOAD, in CTRL and in what was sent
before end with the same PAYLOAD. -/
def Obligations.SetFreqForgetsOldPayload : Prop :=
  ∀ (f : FreqOperand) (s : State) (p : Payload) (c : ControlWord) (l : List LinkEvent) (t u : State),
    exec (.setFreq f) s = .next t → exec (.setFreq f) { s with payload := p, ctrl := c, link := l } = .next u →
    u.payload = t.payload

/-! ### The document's laws -/

/-- R126, a property the document states: the same waveform code twice leaves the same CTRL as once, and the two transactions are the same. -/
def Obligations.WaveformIsIdempotent : Prop :=
  ∀ (s : State) (unused unused' : BitVec 24) (code : Byte), s.faulted = false → s.refused = false →
    s.linkReady = true →
    ∃ t u, exec (.setWave unused code) s = .next t ∧ exec (.setWave unused' code) t = .next u ∧ u.ctrl = t.ctrl ∧
      t.link = s.link ++ transaction t.ctrl t.payload ∧
      u.link = s.link ++ (transaction t.ctrl t.payload ++ transaction t.ctrl t.payload)

/-- R127, a property the document states: OUTPUT_ON, OUTPUT_OFF, OUTPUT_ON clears the disable bit and changes no other bit of CTRL. -/
def Obligations.EnableRoundTrip : Prop :=
  ∀ (s : State) (a b c : BitVec 32), s.faulted = false → s.refused = false → s.linkReady = true →
    ∃ t u v, exec (.outputOn a) s = .next t ∧ exec (.outputOff b) t = .next u ∧ exec (.outputOn c) u = .next v ∧
      v.ctrl.getLsbD s.cfg.disableBit.val = false ∧
      ∀ k, k ≠ s.cfg.disableBit.val → v.ctrl.getLsbD k = s.ctrl.getLsbD k

/-- What the spec derives as R128 from R122 to R125 and R6: SET_FREQ, and SET_WAVE with the code of a shape, never change the output state, for parameters that meet R6;
OUTPUT_ON and OUTPUT_OFF never change PAYLOAD or any other bit of CTRL; and what SET_FREQ and SET_WAVE write is the same
whichever value the disable bit has. -/
def Obligations.OutputStateIsIndependent : Prop :=
  ∀ s t : State, s.cfg.legal = true →
    (∀ f, exec (.setFreq f) s = .next t → t.outputState = s.outputState ∧
      ∀ c u, exec (.setFreq f) { s with ctrl := c } = .next u → u.payload = t.payload) ∧
    (∀ unused shape, exec (.setWave unused (s.cfg.waveCode shape)) s = .next t → t.outputState = s.outputState) ∧
    (∀ unused code c u, exec (.setWave unused code) s = .next t →
      (∀ k, k ≠ s.cfg.disableBit.val → c.getLsbD k = s.ctrl.getLsbD k) →
      exec (.setWave unused code) { s with ctrl := c } = .next u →
      ∀ k, k ≠ s.cfg.disableBit.val → u.ctrl.getLsbD k = t.ctrl.getLsbD k) ∧
    (∀ arg, exec (.outputOn arg) s = .next t ∨ exec (.outputOff arg) s = .next t →
      t.payload = s.payload ∧ ∀ k, k ≠ s.cfg.disableBit.val → t.ctrl.getLsbD k = s.ctrl.getLsbD k)

/-- R125, an invalid code: one with the disable bit set disables the output; no code enables it, for parameters that meet
R6. -/
def Obligations.WaveCodeOnlyEverDisables : Prop :=
  ∀ (s t : State) (unused : BitVec 24) (code : Byte), s.cfg.legal = true →
    exec (.setWave unused code) s = .next t →
    (s.outputState = .disabled → t.outputState = .disabled) ∧
    (s.cfg.disableBit.val < 8 → code.getLsbD s.cfg.disableBit.val = true → t.outputState = .disabled)

/-- R125, sticky stray bits: a bit of CTRL_LO outside WAVE_CLEAR_MASK, other than the disable bit, that is set stays set
in every step. -/
def Obligations.StrayWaveBitsStay : Prop :=
  ∀ (s t : State) (k : Nat), step s = .next t → k < 8 → s.cfg.waveClearMask.getLsbD k = false →
    k ≠ s.cfg.disableBit.val → s.ctrl.getLsbD k = true → t.ctrl.getLsbD k = true

/-- R124, a corner case: SET_FREQ with the same operand in the domain twice writes the same PAYLOAD and emits two
identical transactions. -/
def Obligations.SameFrequencyTwiceSendsTheSame : Prop :=
  ∀ (s : State) (f : FreqOperand), s.faulted = false → s.refused = false → s.linkReady = true →
    (domainVal f).isSome = true →
    ∃ t u, exec (.setFreq f) s = .next t ∧ exec (.setFreq f) t = .next u ∧ u.payload = t.payload ∧
      t.link = s.link ++ transaction t.ctrl t.payload ∧
      u.link = t.link ++ transaction t.ctrl t.payload

/-! ### The encoder -/

/-- R64, which the spec supplies from general knowledge (G1): the value of a binary32 pattern, as an exact rational with a positive denominator. -/
def Obligations.Binary32ValueIsExact : Prop :=
  ∀ a : BitVec 32,
    (binary32Exponent a = 255 → binary32Val a = none) ∧
    (binary32Exponent a = 0 → ∃ v, binary32Val a = some v ∧ 0 < v.den ∧
      (v.num : ℚ) / (v.den : ℚ) =
        (if a.getLsbD 31 then -1 else 1) * (binary32Fraction a : ℚ) * (2 : ℚ) ^ (-149 : ℤ)) ∧
    (binary32Exponent a ≠ 0 → binary32Exponent a ≠ 255 → ∃ v, binary32Val a = some v ∧ 0 < v.den ∧
      (v.num : ℚ) / (v.den : ℚ) =
        (if a.getLsbD 31 then -1 else 1) * (2 ^ 23 + (binary32Fraction a : ℚ)) *
          (2 : ℚ) ^ ((binary32Exponent a : ℤ) - 150))

/-- R102: `q = floor(2^28 * v / F_REF) = floor(v * 2^22 / 390625)` in exact rational arithmetic, for every operand in the
domain, in either format. -/
def Obligations.QuantisationIsExactFloor : Prop :=
  ∀ (f : FreqOperand) (v : ExactFreq), domainVal f = some v →
    ((quantise v : ℤ) = ⌊(2 : ℚ) ^ 28 * ((v.num : ℚ) / (v.den : ℚ)) / 25000000⌋) ∧
    ((quantise v : ℤ) = ⌊((v.num : ℚ) / (v.den : ℚ)) * 2 ^ 22 / 390625⌋)

/-- What the spec derives as R109 items 5 and 6 from R102 and R103: below F_REF nothing is discarded and W never decreases as the value grows; and adding F_REF to
the value changes nothing. -/
def Obligations.TuningWordBelowAndAboveReference : Prop :=
  (∀ (f : FreqOperand) (v : ExactFreq) (draw : TuningWord), domainVal f = some v →
    (v.num : ℚ) / (v.den : ℚ) < 25000000 → quantise v < 2 ^ 28 ∧ (tuningWord f draw).toNat = quantise v) ∧
  (∀ (f g : FreqOperand) (v w : ExactFreq) (draw draw' : TuningWord), domainVal f = some v → domainVal g = some w →
    (v.num : ℚ) / (v.den : ℚ) ≤ (w.num : ℚ) / (w.den : ℚ) → (w.num : ℚ) / (w.den : ℚ) < 25000000 →
    (tuningWord f draw).toNat ≤ (tuningWord g draw').toNat) ∧
  (∀ (f g : FreqOperand) (v w : ExactFreq) (draw draw' : TuningWord), domainVal f = some v → domainVal g = some w →
    (w.num : ℚ) / (w.den : ℚ) = (v.num : ℚ) / (v.den : ℚ) + 25000000 → tuningWord g draw' = tuningWord f draw)

/-- What the spec derives as R109 item 7 from R102 and R64: no binary32 operand in the domain gives `W = 0xFFFFFFF`; and below F_REF the largest W is `0xFFFFFEA`,
which 24,999,998 reaches. -/
def Obligations.LargestBinary32TuningWord : Prop :=
  (∀ (a : BitVec 32) (v : ExactFreq) (draw : TuningWord), domainVal (.binary32 a) = some v →
    tuningWord (.binary32 a) draw ≠ 0xFFFFFFF#28) ∧
  (∀ (a : BitVec 32) (v : ExactFreq) (draw : TuningWord), domainVal (.binary32 a) = some v →
    (v.num : ℚ) / (v.den : ℚ) < 25000000 → (tuningWord (.binary32 a) draw).toNat ≤ 0xFFFFFEA) ∧
  (∀ draw : TuningWord, tuningWord (.binary32 0x4BBEBC1F#32) draw = 0xFFFFFEA#28) ∧
  (∀ draw : TuningWord, tuningWord (.rational { num := 499999999, den := 20 }) draw = 0xFFFFFFF#28)

/-- What the spec derives as R110 from R102: two operands in the domain whose values lie in the same interval of one step of W give the same payload. -/
def Obligations.SameResolutionStepSamePayload : Prop :=
  ∀ (f g : FreqOperand) (v w : ExactFreq) (k : ℕ) (mode : MarkerMode) (draw draw' : TuningWord),
    domainVal f = some v → domainVal g = some w →
    (k : ℚ) * 25000000 / 2 ^ 28 ≤ (v.num : ℚ) / (v.den : ℚ) →
    (v.num : ℚ) / (v.den : ℚ) < ((k : ℚ) + 1) * 25000000 / 2 ^ 28 →
    (k : ℚ) * 25000000 / 2 ^ 28 ≤ (w.num : ℚ) / (w.den : ℚ) →
    (w.num : ℚ) / (w.den : ℚ) < ((k : ℚ) + 1) * 25000000 / 2 ^ 28 →
    encodeFrequency mode f draw = encodeFrequency mode g draw'

/-- What the spec derives as R108 from R102 to R105: stripping the markers and recombining the halves of any payload ENCODE returns gives W back; the marker bits are
those of the mode (R68), for out-of-domain operands too (R109 item 8). -/
def Obligations.PayloadDecodesToTuningWord : Prop :=
  ∀ (mode : MarkerMode) (f : FreqOperand) (draw : TuningWord) (p : Payload), p = encodeFrequency mode f draw →
    payloadTuningWord p = tuningWord f draw ∧
    (payloadTuningWord p).toNat =
      (p.toNat / 2 ^ 24 % 2 ^ 6) * 2 ^ 22 + (p.toNat / 2 ^ 16 % 2 ^ 8) * 2 ^ 14 + (p.toNat / 2 ^ 8 % 2 ^ 6) * 2 ^ 8 +
        p.toNat % 2 ^ 8 ∧
    p.extractLsb' 30 2 = (match mode with | .perHalf => 0b01#2 | .bothSlot0 => 0b01#2 | .bothSlot1 => 0b10#2) ∧
    p.extractLsb' 14 2 = (match mode with | .perHalf => 0b10#2 | .bothSlot0 => 0b01#2 | .bothSlot1 => 0b10#2)

/-- R109 items 1 to 4, and R61's SET_FREQ word of 1000.0 Hz from R107's worked example, under PER_HALF. -/
def Obligations.EncoderCornerPayloads : Prop :=
  ∀ draw : TuningWord,
    encodeFrequency .perHalf (.binary32 0x00000000#32) draw = 0x40008000#32 ∧
    encodeFrequency .perHalf (.binary32 0x80000000#32) draw = 0x40008000#32 ∧
    encodeFrequency .perHalf (.binary32 0x3DBEBC1F#32) draw = 0x40008000#32 ∧
    encodeFrequency .perHalf (.binary32 0x3DBEBC20#32) draw = 0x40008001#32 ∧
    encodeFrequency .perHalf (.binary32 0x447A0000#32) draw = 0x4000A9F1#32 ∧
    encodeFrequency .perHalf (.binary32 0x4B3EBC20#32) draw = 0x60008000#32

/-! ### The link -/

/-- R140 and R69: the events of a transaction, byte by byte. -/
def Obligations.TransactionIsSixBytesUnderSelect : Prop :=
  ∀ (s : State),
    transmit s = { s with csN := true, link := s.link ++
      [.assert, .byte (s.ctrl.extractLsb' 8 8), .byte (s.ctrl.extractLsb' 0 8), .byte (s.payload.extractLsb' 24 8),
        .byte (s.payload.extractLsb' 16 8), .byte (s.payload.extractLsb' 8 8), .byte (s.payload.extractLsb' 0 8),
        .deassert] }

/-- R48, and what the spec derives as R49: the events of a step are one whole transaction of the registers as they are
after the step's update, or none; and none when the block waited or ran INIT. That a step with no command offered waits is
the model's own choice (log 8, DESIGN CHOICE), and so is the one event list that steps append to (log 9). -/
def Obligations.StepSendsUpdatedRegistersOnce : Prop :=
  ∀ s t : State, step s = .next t →
    t.link = s.link ++ stepEvents s t ∧
    ((stepEvents s t = transaction t.ctrl t.payload ∧
        ∃ cmd i, s.pending.head? = some cmd ∧ decode cmd = .command i ∧ transmits i = true) ∨
      (stepEvents s t = [] ∧
        (s.pending = [] ∨ ∃ cmd arg, s.pending.head? = some cmd ∧ decode cmd = .command (.init arg))))

/-- R141 and R142: in a list of whole transactions the select line is low at every byte, and high after the last
event. -/
def Obligations.SelectIsLowAtEveryByte : Prop :=
  ∀ l : List LinkEvent, wholeTransactions l = true →
    selectLevelAfter l = true ∧
    ∀ (before after : List LinkEvent) (b : Byte), l = before ++ .byte b :: after → selectLevelAfter before = false

/-- R143 and R69: under MSB_FIRST a transaction puts the 48-bit frame `CTRL ++ PAYLOAD` on the wire, bit 47 first; under
LSB_FIRST each byte goes `b[0]` first and the byte order is the same. -/
def Obligations.TransactionBitsAreTheFrame : Prop :=
  ∀ (c : ControlWord) (p : Payload),
    serialBits .msbFirst (transaction c p) = (List.range 48).map (fun k => (c ++ p : Frame).getLsbD (47 - k)) ∧
    serialBits .lsbFirst (transaction c p) =
      (List.range 48).map (fun k => (c ++ p : Frame).getLsbD (8 * (5 - k / 8) + k % 8))

/-- R33 and R184 at bit-time grain (log 17): a transmitting command's transaction takes 48 bit-times after the cycle that
accepts it, in which `cs_n = 0`, `cmd_ready = 0`, `sdata` carries the transaction's bits in order and every offered
command is held; then the block is idle in the state that the transaction-level step gives. -/
def Obligations.SerialBlockRefinesStep : Prop :=
  ∀ (b : SerialBlock) (t : State), b.shifter = Shifter.idle → step b.regs = .next t → t.link ≠ b.regs.link →
    (∀ k, k < 48 → ∃ sh : Shifter, b.cycles (1 + k) = .next { regs := t, shifter := sh } ∧
      sh.cmdReady = false ∧ sh.csN = false ∧
      ∀ order, sh.sdata order = (serialBits order (transaction t.ctrl t.payload))[k]?) ∧
    b.cycles 49 = .next { regs := t, shifter := Shifter.idle }

/-- R180 at the ports, and R75's `rst_n`: low `rst_n` resets the block whatever it is doing, in the middle of a transaction
and after a fault or a refusal too, and every register has its reset value. The model's own choices in it (log 22): no
transaction is left in progress, no command is accepted in such a cycle, and `cs_n` is 1 in it. -/
def Obligations.LowResetPortRestartsTheBlock : Prop :=
  ∀ (p : PortInputs) (b : SerialBlock), p.rstN = false →
    b.accepts p = false ∧ (b.outputs p).csN = true ∧
    ∃ b', b.clock p = .next b' ∧ b'.regs.ctrl = b.regs.cfg.ctrlInit ∧
      (∃ n, b'.regs.payload = Config.freePayload n) ∧ b'.regs.csN = true ∧ b'.regs.linkReady = false ∧
      b'.regs.faulted = false ∧ b'.regs.refused = false ∧ b'.regs.link = [] ∧ b'.regs.cfg = b.regs.cfg ∧
      ∀ q : PortInputs, q.rstN = true →
        (b'.outputs q).cmdReady = true ∧ (b'.outputs q).csN = true ∧ (b'.outputs q).sdata = none

/-- R75 and R184 at the ports (grain: log 17): a transmitting command accepted at the ports takes 48 further cycles,
whatever the ports offer in them. In each of them no command is accepted, `cs_n = 0` and `sdata` carries the next bit of the
transaction in the machine's BIT_ORDER; the registers are already those of the command, and after the 48th the block is
ready again. -/
def Obligations.AcceptedCommandHoldsThePorts : Prop :=
  ∀ (p : PortInputs) (b : SerialBlock) (i : Instr) (t : State), b.shifter = Shifter.idle → p.rstN = true →
    p.cmdValid = true → decode p.cmd = .command i → transmits i = true → exec i b.regs = .next t →
    b.accepts p = true ∧
    ∀ ps : List PortInputs, (∀ q ∈ ps, q.rstN = true) → ps.length ≤ 48 →
      ∃ b', b.clocks (p :: ps) = .next b' ∧ b'.regs = t ∧
        (ps.length < 48 → ∀ q : PortInputs, q.rstN = true → b'.accepts q = false ∧ (b'.outputs q).csN = false ∧
          (b'.outputs q).sdata = (serialBits t.cfg.bitOrder (transaction t.ctrl t.payload))[ps.length]?) ∧
        (ps.length = 48 → b'.shifter = Shifter.idle)

/-- The model's two ways to drive the block agree (log 8, log 17): a cycle with the queue is the cycle of an idle block at
whose ports the oldest command of the queue is offered, that command taken off the queue; with a transaction in progress
the queue is as it was and the ports' command is ignored. -/
def Obligations.QueueCycleIsPortCycle : Prop :=
  ∀ (b : SerialBlock) (cmd : Command) (rest : List Command), b.regs.pending = cmd :: rest →
    (b.shifter.busy = false →
      b.cycle = SerialBlock.clock { rstN := true, cmdValid := true, cmd := cmd }
        { b with regs := { b.regs with pending := rest } }) ∧
    (b.shifter.busy = true → b.cycle = b.clock { rstN := true, cmdValid := true, cmd := cmd })

/-- R164 and R167, a step in the spec's own form: it has no step exactly when a run has ended; its one fault is
NOT_INITIALISED, of a command other than INIT while `LINK_READY = 0`; its one refusal is RESERVED_OPCODE, of a word with OP
0x0 or 0x6 to 0xF; and every other step is next. `stepOutcome` reads the model's stuck state as no step (log 7). -/
def Obligations.StepHasTheSpecsOutcomes : Prop :=
  ∀ s : State,
    (stepOutcome s = none ↔ s.faulted = true ∨ s.refused = true) ∧
    (stepOutcome s = some (.fault .notInitialised) ↔
      s.faulted = false ∧ s.refused = false ∧ s.linkReady = false ∧
      ∃ cmd i, s.pending.head? = some cmd ∧ decode cmd = .command i ∧ transmits i = true) ∧
    (stepOutcome s = some (.refused .reservedOpcode) ↔
      s.faulted = false ∧ s.refused = false ∧
      ∃ w : CommandWord, s.pending.head? = some (.word w) ∧ (w.toNat / 2 ^ 32 = 0 ∨ 6 ≤ w.toNat / 2 ^ 32))

/-! ### Invariants -/

/-- The invariant holds after power-on reset. -/
def Obligations.InvariantAtReset : Prop := Inv State.reset

/-- Every step keeps the invariant, from every state: the parameters meet R6, `cs_n` is 1 between commands (R142), the
link is a sequence of whole transactions (R47, R50), and nothing was sent before INIT (R182). -/
def Obligations.StepKeepsInvariant : Prop :=
  ∀ s t : State, Inv s → step s = .next t → Inv t

/-- CTRL's fixed flags hold their CTRL_INIT value after power-on reset. -/
def Obligations.FixedFlagsAtReset : Prop := FixedFlags State.reset

/-- Every step keeps CTRL's fixed flags, from every state: the bits of CTRL_HI other than DISABLE keep the value of
CTRL_INIT (R22), and a bit of CTRL_LO outside WAVE_CLEAR_MASK and DISABLE that CTRL_INIT sets stays set (R125). -/
def Obligations.StepKeepsFixedFlags : Prop :=
  ∀ s t : State, FixedFlags s → step s = .next t → FixedFlags t

/-- The host's duty of R63 is kept by every step: a queue whose commands all belong to FREQ_FORMAT stays one (log 10). -/
def Obligations.StepKeepsHostFormat : Prop :=
  ∀ s t : State, s.hostKeepsFormat = true → step s = .next t → t.hostKeepsFormat = true

/-- The bit-time view's invariant holds after power-on reset with no transaction in progress. -/
def Obligations.SerialInvariantAtReset : Prop := SerialInv { regs := State.reset, shifter := Shifter.idle }

/-- Every cycle keeps the bit-time view's invariant, whatever the ports carry, `rst_n` low included: the registers' own
invariant, and that a transaction in progress is at one of its 48 bits and sends CTRL and PAYLOAD as they stand (R33, R48). -/
def Obligations.PortCycleKeepsInvariant : Prop :=
  ∀ (p : PortInputs) (b b' : SerialBlock), SerialInv b → b.clock p = .next b' ∨ b.cycle = .next b' → SerialInv b'

/-! ### Runs -/

/-- R189 and R49: from a running block whose link is ready, `n` offered commands, none reserved, all complete in `n`
steps. No run hangs, and each transmitting command adds 8 events to the link. The queue that offers the commands is the
model's own (log 8, DESIGN CHOICE). -/
def Obligations.OfferedCommandsAllComplete : Prop :=
  ∀ s : State, s.faulted = false → s.refused = false → s.linkReady = true →
    (∀ cmd ∈ s.pending, ∃ i, decode cmd = .command i) →
    ∃ t, runFor s.pending.length s = .next t ∧ t.pending = [] ∧ t.linkReady = true ∧
      t.link.length = s.link.length +
        8 * (s.pending.countP fun cmd => match decode cmd with | .command i => transmits i | _ => false)

/-- R130, R167 and R182: a run from power-on reset is successful exactly when no command of it is reserved and its first
command, if it has one, is INIT. The model's own choices in it: the queue of commands (log 8), that a command of the other
FREQ_FORMAT runs too, as every exact operand does (log 10; its denominator is never 0, by its type), and power-on reset
as a function on states that empties the queue (log 15). -/
def Obligations.SuccessfulRunsBeginWithInit : Prop :=
  ∀ (s : State) (cmds : List Command),
    successful (runCommands s cmds) = true ↔
      (∀ cmd ∈ cmds, ∃ i, decode cmd = .command i) ∧
      (∀ cmd ∈ cmds.head?, ∃ arg, decode cmd = .command (.init arg))

/-- R130 and R168: every run ends with a final state that can be observed. At most one mark is set in it, none exactly
when the run is successful; `cs_n` is 1 and the events are whole transactions. That a fault and a refusal carry the final
state is the model's own choice (log 6, DESIGN CHOICE); the queue and reset are log 8's and log 15's. -/
def Obligations.EveryRunEndsObservably : Prop :=
  ∀ (s : State) (cmds : List Command), ∃ t, finalState (runCommands s cmds) = some t ∧
    (successful (runCommands s cmds) = true ↔ t.observe.faulted = false ∧ t.observe.refused = false) ∧
    (t.observe.faulted = false ∨ t.observe.refused = false) ∧ t.observe.csN = true ∧
    wholeTransactions t.observe.events = true

/-! ### The assembler -/

/-- R72: a shape name is SET_WAVE with `ARG = zext_32(code)`; R71: `ARG` bits a command ignores are assembled as 0. -/
def Obligations.AssembledWordsHaveZeroUnusedBits : Prop :=
  ∀ cfg : Config,
    (assemble cfg .init).map encode = some (.word 0x100000000#36) ∧
    (assemble cfg .outputOn).map encode = some (.word 0x200000000#36) ∧
    (assemble cfg .outputOff).map encode = some (.word 0x300000000#36) ∧
    (∀ a, (assemble cfg (.setFreqPattern a)).map encode = some (.word (0x400000000#36 + a.setWidth 36))) ∧
    (∀ code, (assemble cfg (.setWaveCode code)).map encode = some (.word (0x500000000#36 + code.setWidth 36))) ∧
    (∀ shape, (assemble cfg (.setWaveShape shape)).map encode =
      some (.word (0x500000000#36 + (cfg.waveCode shape).setWidth 36)))

/-- R71: a decimal is assembled to a pattern that has exactly its value, and rejected only when no pattern has it. -/
def Obligations.DecimalsAssembleExactly : Prop :=
  ∀ f : ExactFreq,
    (∀ a, binary32Of f = some a → ∃ v, binary32Val a = some v ∧
      (v.num : ℚ) / (v.den : ℚ) = (f.num : ℚ) / (f.den : ℚ)) ∧
    (∀ a v, binary32Val a = some v → (v.num : ℚ) / (v.den : ℚ) = (f.num : ℚ) / (f.den : ℚ) →
      (binary32Of f).isSome = true)
end

