-- ==== Sys2Proof/Laws/State.lean ====
section
/-! SUPPORT. One lemma per field per update of State, each true by rfl, so that no proof unfolds a record update. -/

namespace Sys2Proof.Machine.State

variable (s : State)

@[simp] theorem setCtrl_ctrl (v : ControlWord) : (s.setCtrl v).ctrl = v := rfl
@[simp] theorem setCtrl_payload (v : ControlWord) : (s.setCtrl v).payload = s.payload := rfl
@[simp] theorem setCtrl_csN (v : ControlWord) : (s.setCtrl v).csN = s.csN := rfl
@[simp] theorem setCtrl_linkReady (v : ControlWord) : (s.setCtrl v).linkReady = s.linkReady := rfl
@[simp] theorem setCtrl_faulted (v : ControlWord) : (s.setCtrl v).faulted = s.faulted := rfl
@[simp] theorem setCtrl_refused (v : ControlWord) : (s.setCtrl v).refused = s.refused := rfl
@[simp] theorem setCtrl_link (v : ControlWord) : (s.setCtrl v).link = s.link := rfl
@[simp] theorem setCtrl_pending (v : ControlWord) : (s.setCtrl v).pending = s.pending := rfl
@[simp] theorem setCtrl_draws (v : ControlWord) : (s.setCtrl v).draws = s.draws := rfl
@[simp] theorem setCtrl_cfg (v : ControlWord) : (s.setCtrl v).cfg = s.cfg := rfl

@[simp] theorem setPayload_ctrl (v : Payload) : (s.setPayload v).ctrl = s.ctrl := rfl
@[simp] theorem setPayload_payload (v : Payload) : (s.setPayload v).payload = v := rfl
@[simp] theorem setPayload_csN (v : Payload) : (s.setPayload v).csN = s.csN := rfl
@[simp] theorem setPayload_linkReady (v : Payload) : (s.setPayload v).linkReady = s.linkReady := rfl
@[simp] theorem setPayload_faulted (v : Payload) : (s.setPayload v).faulted = s.faulted := rfl
@[simp] theorem setPayload_refused (v : Payload) : (s.setPayload v).refused = s.refused := rfl
@[simp] theorem setPayload_link (v : Payload) : (s.setPayload v).link = s.link := rfl
@[simp] theorem setPayload_pending (v : Payload) : (s.setPayload v).pending = s.pending := rfl
@[simp] theorem setPayload_draws (v : Payload) : (s.setPayload v).draws = s.draws := rfl
@[simp] theorem setPayload_cfg (v : Payload) : (s.setPayload v).cfg = s.cfg := rfl

@[simp] theorem setSelect_ctrl (v : Bool) : (s.setSelect v).ctrl = s.ctrl := rfl
@[simp] theorem setSelect_payload (v : Bool) : (s.setSelect v).payload = s.payload := rfl
@[simp] theorem setSelect_csN (v : Bool) : (s.setSelect v).csN = v := rfl
@[simp] theorem setSelect_linkReady (v : Bool) : (s.setSelect v).linkReady = s.linkReady := rfl
@[simp] theorem setSelect_faulted (v : Bool) : (s.setSelect v).faulted = s.faulted := rfl
@[simp] theorem setSelect_refused (v : Bool) : (s.setSelect v).refused = s.refused := rfl
@[simp] theorem setSelect_link (v : Bool) : (s.setSelect v).link = s.link := rfl
@[simp] theorem setSelect_pending (v : Bool) : (s.setSelect v).pending = s.pending := rfl
@[simp] theorem setSelect_draws (v : Bool) : (s.setSelect v).draws = s.draws := rfl
@[simp] theorem setSelect_cfg (v : Bool) : (s.setSelect v).cfg = s.cfg := rfl

@[simp] theorem setLinkReady_ctrl : s.setLinkReady.ctrl = s.ctrl := rfl
@[simp] theorem setLinkReady_payload : s.setLinkReady.payload = s.payload := rfl
@[simp] theorem setLinkReady_csN : s.setLinkReady.csN = s.csN := rfl
@[simp] theorem setLinkReady_linkReady : s.setLinkReady.linkReady = true := rfl
@[simp] theorem setLinkReady_faulted : s.setLinkReady.faulted = s.faulted := rfl
@[simp] theorem setLinkReady_refused : s.setLinkReady.refused = s.refused := rfl
@[simp] theorem setLinkReady_link : s.setLinkReady.link = s.link := rfl
@[simp] theorem setLinkReady_pending : s.setLinkReady.pending = s.pending := rfl
@[simp] theorem setLinkReady_draws : s.setLinkReady.draws = s.draws := rfl
@[simp] theorem setLinkReady_cfg : s.setLinkReady.cfg = s.cfg := rfl

@[simp] theorem markFaulted_ctrl : s.markFaulted.ctrl = s.ctrl := rfl
@[simp] theorem markFaulted_payload : s.markFaulted.payload = s.payload := rfl
@[simp] theorem markFaulted_csN : s.markFaulted.csN = s.csN := rfl
@[simp] theorem markFaulted_linkReady : s.markFaulted.linkReady = s.linkReady := rfl
@[simp] theorem markFaulted_faulted : s.markFaulted.faulted = true := rfl
@[simp] theorem markFaulted_refused : s.markFaulted.refused = s.refused := rfl
@[simp] theorem markFaulted_link : s.markFaulted.link = s.link := rfl
@[simp] theorem markFaulted_pending : s.markFaulted.pending = s.pending := rfl
@[simp] theorem markFaulted_draws : s.markFaulted.draws = s.draws := rfl
@[simp] theorem markFaulted_cfg : s.markFaulted.cfg = s.cfg := rfl

@[simp] theorem markRefused_ctrl : s.markRefused.ctrl = s.ctrl := rfl
@[simp] theorem markRefused_payload : s.markRefused.payload = s.payload := rfl
@[simp] theorem markRefused_csN : s.markRefused.csN = s.csN := rfl
@[simp] theorem markRefused_linkReady : s.markRefused.linkReady = s.linkReady := rfl
@[simp] theorem markRefused_faulted : s.markRefused.faulted = s.faulted := rfl
@[simp] theorem markRefused_refused : s.markRefused.refused = true := rfl
@[simp] theorem markRefused_link : s.markRefused.link = s.link := rfl
@[simp] theorem markRefused_pending : s.markRefused.pending = s.pending := rfl
@[simp] theorem markRefused_draws : s.markRefused.draws = s.draws := rfl
@[simp] theorem markRefused_cfg : s.markRefused.cfg = s.cfg := rfl

@[simp] theorem emit_ctrl (e : LinkEvent) : (s.emit e).ctrl = s.ctrl := rfl
@[simp] theorem emit_payload (e : LinkEvent) : (s.emit e).payload = s.payload := rfl
@[simp] theorem emit_csN (e : LinkEvent) : (s.emit e).csN = s.csN := rfl
@[simp] theorem emit_linkReady (e : LinkEvent) : (s.emit e).linkReady = s.linkReady := rfl
@[simp] theorem emit_faulted (e : LinkEvent) : (s.emit e).faulted = s.faulted := rfl
@[simp] theorem emit_refused (e : LinkEvent) : (s.emit e).refused = s.refused := rfl
@[simp] theorem emit_link (e : LinkEvent) : (s.emit e).link = s.link ++ [e] := rfl
@[simp] theorem emit_pending (e : LinkEvent) : (s.emit e).pending = s.pending := rfl
@[simp] theorem emit_draws (e : LinkEvent) : (s.emit e).draws = s.draws := rfl
@[simp] theorem emit_cfg (e : LinkEvent) : (s.emit e).cfg = s.cfg := rfl

@[simp] theorem countDraw_ctrl : s.countDraw.ctrl = s.ctrl := rfl
@[simp] theorem countDraw_payload : s.countDraw.payload = s.payload := rfl
@[simp] theorem countDraw_csN : s.countDraw.csN = s.csN := rfl
@[simp] theorem countDraw_linkReady : s.countDraw.linkReady = s.linkReady := rfl
@[simp] theorem countDraw_faulted : s.countDraw.faulted = s.faulted := rfl
@[simp] theorem countDraw_refused : s.countDraw.refused = s.refused := rfl
@[simp] theorem countDraw_link : s.countDraw.link = s.link := rfl
@[simp] theorem countDraw_pending : s.countDraw.pending = s.pending := rfl
@[simp] theorem countDraw_draws : s.countDraw.draws = s.draws + 1 := rfl
@[simp] theorem countDraw_cfg : s.countDraw.cfg = s.cfg := rfl

@[simp] theorem withPending_ctrl (q : List Command) : (s.withPending q).ctrl = s.ctrl := rfl
@[simp] theorem withPending_payload (q : List Command) : (s.withPending q).payload = s.payload := rfl
@[simp] theorem withPending_csN (q : List Command) : (s.withPending q).csN = s.csN := rfl
@[simp] theorem withPending_linkReady (q : List Command) : (s.withPending q).linkReady = s.linkReady := rfl
@[simp] theorem withPending_faulted (q : List Command) : (s.withPending q).faulted = s.faulted := rfl
@[simp] theorem withPending_refused (q : List Command) : (s.withPending q).refused = s.refused := rfl
@[simp] theorem withPending_link (q : List Command) : (s.withPending q).link = s.link := rfl
@[simp] theorem withPending_pending (q : List Command) : (s.withPending q).pending = q := rfl
@[simp] theorem withPending_draws (q : List Command) : (s.withPending q).draws = s.draws := rfl
@[simp] theorem withPending_cfg (q : List Command) : (s.withPending q).cfg = s.cfg := rfl

@[simp] theorem resetUnder_ctrl (cfg : Config) (n : Nat) : (resetUnder cfg n).ctrl = cfg.ctrlInit := rfl
@[simp] theorem resetUnder_payload (cfg : Config) (n : Nat) : (resetUnder cfg n).payload = Config.freePayload n := rfl
@[simp] theorem resetUnder_csN (cfg : Config) (n : Nat) : (resetUnder cfg n).csN = true := rfl
@[simp] theorem resetUnder_linkReady (cfg : Config) (n : Nat) : (resetUnder cfg n).linkReady = false := rfl
@[simp] theorem resetUnder_faulted (cfg : Config) (n : Nat) : (resetUnder cfg n).faulted = false := rfl
@[simp] theorem resetUnder_refused (cfg : Config) (n : Nat) : (resetUnder cfg n).refused = false := rfl
@[simp] theorem resetUnder_link (cfg : Config) (n : Nat) : (resetUnder cfg n).link = [] := rfl
@[simp] theorem resetUnder_pending (cfg : Config) (n : Nat) : (resetUnder cfg n).pending = [] := rfl
@[simp] theorem resetUnder_draws (cfg : Config) (n : Nat) : (resetUnder cfg n).draws = n + 1 := rfl
@[simp] theorem resetUnder_cfg (cfg : Config) (n : Nat) : (resetUnder cfg n).cfg = cfg := rfl

@[simp] theorem ended_setCtrl (v : ControlWord) : (s.setCtrl v).ended = s.ended := rfl
@[simp] theorem ended_setPayload (v : Payload) : (s.setPayload v).ended = s.ended := rfl
@[simp] theorem ended_setSelect (v : Bool) : (s.setSelect v).ended = s.ended := rfl
@[simp] theorem ended_setLinkReady : s.setLinkReady.ended = s.ended := rfl
@[simp] theorem ended_emit (e : LinkEvent) : (s.emit e).ended = s.ended := rfl
@[simp] theorem ended_countDraw : s.countDraw.ended = s.ended := rfl
@[simp] theorem ended_withPending (q : List Command) : (s.withPending q).ended = s.ended := rfl
@[simp] theorem ended_markFaulted : s.markFaulted.ended = true := rfl
@[simp] theorem ended_markRefused : s.markRefused.ended = true := by simp [ended]
@[simp] theorem ended_resetUnder (cfg : Config) (n : Nat) : (resetUnder cfg n).ended = false := rfl
@[simp] theorem withPending_withPending (q r : List Command) :
    (s.withPending q).withPending r = s.withPending r := rfl

end Sys2Proof.Machine.State
end

