-- ==== Sys2Proof/Laws/Link.lean ====
section
/-! SUPPORT. What the transmitter can do, said once (spec/42_transmitter.md R140 to R142, R147). -/

namespace Sys2Proof.Machine

/-- The whole of TRANSMIT: it appends one transaction, leaves `cs_n` at 1 and writes nothing else. -/
theorem transmit_eq (s : State) :
    transmit s = { s with csN := true, link := s.link ++ transaction s.ctrl s.payload } := by
  simp [transmit, transaction, frameBytes, State.assertSelect, State.sendByte, State.deassertSelect, State.emit,
    State.setSelect]

@[simp] theorem transmit_ctrl (s : State) : (transmit s).ctrl = s.ctrl := by rw [transmit_eq]
@[simp] theorem transmit_payload (s : State) : (transmit s).payload = s.payload := by rw [transmit_eq]
@[simp] theorem transmit_csN (s : State) : (transmit s).csN = true := by rw [transmit_eq]
@[simp] theorem transmit_linkReady (s : State) : (transmit s).linkReady = s.linkReady := by rw [transmit_eq]
@[simp] theorem transmit_faulted (s : State) : (transmit s).faulted = s.faulted := by rw [transmit_eq]
@[simp] theorem transmit_refused (s : State) : (transmit s).refused = s.refused := by rw [transmit_eq]
@[simp] theorem transmit_pending (s : State) : (transmit s).pending = s.pending := by rw [transmit_eq]
@[simp] theorem transmit_draws (s : State) : (transmit s).draws = s.draws := by rw [transmit_eq]
@[simp] theorem transmit_cfg (s : State) : (transmit s).cfg = s.cfg := by rw [transmit_eq]

theorem transmit_link (s : State) : (transmit s).link = s.link ++ transaction s.ctrl s.payload := by
  rw [transmit_eq]

/-- A transaction in front of whole transactions keeps them whole. -/
theorem wholeTransactions_cons (c : ControlWord) (p : Payload) (l : List LinkEvent) :
    wholeTransactions (transaction c p ++ l) = wholeTransactions l := by
  simp [transaction, frameBytes, wholeTransactions]

/-- Whole transactions after whole transactions are whole. -/
theorem wholeTransactions_append (l m : List LinkEvent) (hl : wholeTransactions l = true)
    (hm : wholeTransactions m = true) : wholeTransactions (l ++ m) = true := by
  induction l using wholeTransactions.induct with
  | case1 => exact hm
  | case2 _ _ _ _ _ _ rest ih => simpa [wholeTransactions] using ih (by simpa [wholeTransactions] using hl)
  | case3 l h1 h2 => simp [wholeTransactions] at hl

/-- The events of one transaction are whole. -/
theorem wholeTransactions_transaction (c : ControlWord) (p : Payload) :
    wholeTransactions (transaction c p) = true := by
  simp [transaction, frameBytes, wholeTransactions]

end Sys2Proof.Machine
end

