-- ==== Sys2Proof/Laws/Commands.lean ====
section
/-! SUPPORT. What the shared frame, the meanings and the step can do, said once (spec/41_commands.md R120,
spec/60_exceptions.md R165 to R168). Later proofs cite these instead of unfolding exec or step. -/

namespace Sys2Proof.Machine

theorem unlessEnded_of_running {s : State} (h : s.ended = false) (go : Result) : unlessEnded s go = go := by
  simp [unlessEnded, h]

theorem unlessEnded_of_ended {s : State} (h : s.ended = true) (go : Result) :
    unlessEnded s go = .fault .runEnded := by
  simp [unlessEnded, h]

/-- The shared frame answers a next state only from a running state. -/
theorem unlessEnded_next {s t : State} {go : Result} (h : unlessEnded s go = .next t) :
    s.ended = false ∧ go = .next t := by
  unfold unlessEnded at h
  split at h
  · cases h
  · next hn => exact ⟨by simpa using hn, h⟩

/-- The frame of a transmitting command answers next exactly when the run goes on and the link is ready. -/
theorem whenLinkReady_next {cmd : Command} {s t : State} {effect : State → State}
    (h : whenLinkReady cmd s effect = .next t) : s.ended = false ∧ s.linkReady = true ∧ t = effect s := by
  obtain ⟨hrun, hgo⟩ := unlessEnded_next h
  split at hgo
  · next hl => exact ⟨hrun, hl, by cases hgo; rfl⟩
  · cases hgo

theorem whenLinkReady_of_ready {cmd : Command} {s : State} {effect : State → State}
    (hrun : s.ended = false) (hlink : s.linkReady = true) : whenLinkReady cmd s effect = .next (effect s) := by
  simp [whenLinkReady, unlessEnded, hrun, hlink]

/-- The register update of a command, before it transmits (41_commands.md R120: "first makes its register update"). -/
def updateOf (i : Instr) (s : State) : State :=
  match i with
  | .init _ => s.setLinkReady.setSelect true
  | .outputOn _ => s.setCtrl (clearDisable s.cfg s.ctrl)
  | .outputOff _ => s.setCtrl (setDisable s.cfg s.ctrl)
  | .setFreq f => loadFrequency f s
  | .setWave _ code => s.setCtrl (setWaveform s.cfg code s.ctrl)

/-- A transmitting command is its update and then TRANSMIT, in the shared frame. -/
theorem exec_of_transmits {i : Instr} (h : transmits i = true) (s : State) :
    exec i s = whenLinkReady (encode i) s fun s => transmit (updateOf i s) := by
  cases i <;> first | rfl | simp [transmits] at h

/-- A transmitting command of a running block whose link is ready completes. -/
theorem exec_of_ready {i : Instr} {s : State} (h : transmits i = true) (hrun : s.ended = false)
    (hlink : s.linkReady = true) : exec i s = .next (transmit (updateOf i s)) := by
  rw [exec_of_transmits h, whenLinkReady_of_ready hrun hlink]

/-- Of an ended run every command answers the stuck state. -/
theorem exec_of_ended {s : State} (h : s.ended = true) (i : Instr) : exec i s = .fault .runEnded := by
  by_cases ht : transmits i = true
  · rw [exec_of_transmits ht, whenLinkReady, unlessEnded_of_ended h]
  · cases i with
    | init a => exact unlessEnded_of_ended h _
    | _ => simp [transmits] at ht

/-- Everything a next state of exec can be. -/
theorem exec_next_cases {i : Instr} {s t : State} (h : exec i s = .next t) :
    s.ended = false ∧
      ((transmits i = false ∧ t = updateOf i s) ∨
        (transmits i = true ∧ s.linkReady = true ∧ t = transmit (updateOf i s))) := by
  by_cases ht : transmits i = true
  · rw [exec_of_transmits ht] at h
    obtain ⟨hrun, hlink, rfl⟩ := whenLinkReady_next h
    exact ⟨hrun, .inr ⟨ht, hlink, rfl⟩⟩
  · cases i with
    | init arg =>
      obtain ⟨hrun, hgo⟩ := unlessEnded_next (show unlessEnded s _ = _ from h)
      exact ⟨hrun, .inl ⟨rfl, by cases hgo; rfl⟩⟩
    | _ => simp [transmits] at ht

/-- Everything a next state can be once the block looks at what is offered. -/
theorem takeOffered_next_cases {offered : Option Command} {s t : State}
    (h : takeOffered exec offered s = .next t) :
    s.ended = false ∧
      ((offered = none ∧ t = s) ∨ ∃ cmd i, offered = some cmd ∧ decode cmd = .command i ∧ exec i s = .next t) := by
  obtain ⟨hrun, hgo⟩ := unlessEnded_next h
  refine ⟨hrun, ?_⟩
  cases offered with
  | none => exact .inl ⟨rfl, by cases hgo; rfl⟩
  | some cmd =>
    simp only [runCommand] at hgo
    split at hgo
    · next i hd => exact .inr ⟨cmd, i, rfl, hd, hgo⟩
    · cases hgo

/-- With no command offered, a step is the wait. -/
theorem step_of_nil {s : State} (hp : s.pending = []) : step s = unlessEnded s (.next s) := by
  cases s; cases hp; rfl

/-- With a command offered, a step takes it off the queue and looks at it. -/
theorem step_of_cons {s : State} {cmd : Command} {rest : List Command} (hp : s.pending = cmd :: rest) :
    step s = takeOffered exec (some cmd) (s.withPending rest) := by
  simp only [step, takeCommand, hp, List.head?_cons, List.tail_cons]

/-- Of a running block, that is the command. -/
theorem step_of_cons_running {s : State} {cmd : Command} {rest : List Command} (hrun : s.ended = false)
    (hp : s.pending = cmd :: rest) : step s = runCommand exec cmd (s.withPending rest) := by
  rw [step_of_cons hp]
  exact unlessEnded_of_running (by simpa using hrun) _

/-- Of an ended run a step is the stuck state. -/
theorem step_of_ended {s : State} (h : s.ended = true) : step s = .fault .runEnded :=
  unlessEnded_of_ended (by simpa using h) _

/-- Everything a next state of a step can be: the block waited, or it ran the oldest offered command. -/
theorem step_next_cases {s t : State} (h : step s = .next t) :
    s.ended = false ∧
      ((s.pending = [] ∧ t = s) ∨
        ∃ cmd rest i, s.pending = cmd :: rest ∧ decode cmd = .command i ∧ exec i (s.withPending rest) = .next t) := by
  cases hp : s.pending with
  | nil =>
    rw [step_of_nil hp] at h
    obtain ⟨hrun, hgo⟩ := unlessEnded_next h
    exact ⟨hrun, .inl ⟨rfl, by cases hgo; rfl⟩⟩
  | cons cmd rest =>
    rw [step_of_cons hp] at h
    obtain ⟨hrun, ⟨⟨⟩, -⟩ | ⟨cmd', i, he, hd, hx⟩⟩ := takeOffered_next_cases h
    cases he
    exact ⟨hrun, .inr ⟨cmd, rest, i, rfl, hd, hx⟩⟩

/-- The update of a command leaves the model's own fields, the marks and `cfg` alone. -/
theorem updateOf_frame (i : Instr) (s : State) :
    (updateOf i s).link = s.link ∧ (updateOf i s).pending = s.pending ∧ (updateOf i s).cfg = s.cfg ∧
      (updateOf i s).faulted = s.faulted ∧ (updateOf i s).refused = s.refused := by
  cases i with
  | setFreq f => simp only [updateOf, loadFrequency]; split <;> simp
  | _ => simp [updateOf]

/-- SET_FREQ's update writes PAYLOAD and the draw counter, nothing else. -/
theorem loadFrequency_frame (f : FreqOperand) (s : State) :
    (loadFrequency f s).ctrl = s.ctrl ∧ (loadFrequency f s).csN = s.csN ∧
      (loadFrequency f s).linkReady = s.linkReady ∧
      (loadFrequency f s).payload =
        payloadOf s.cfg.markerMode (tuningWord f (Config.freeTuningWord s.draws)) := by
  simp only [loadFrequency, encodeFrequency]
  split <;> simp

end Sys2Proof.Machine
end

