-- ==== Sys2Proof/Laws/Control.lean ====
section
/-! SUPPORT. CTRL's updates, bit by bit (spec/41_commands.md R122, R123, R125). -/

namespace Sys2Proof.Machine

theorem disableMask_getLsbD (cfg : Config) (k : Nat) :
    (disableMask cfg).getLsbD k = decide (k = cfg.disableBit.val) := by
  have hd := cfg.disableBit.isLt
  simp only [disableMask, BitVec.getLsbD_shiftLeft, BitVec.getLsbD_one]
  by_cases h : k = cfg.disableBit.val
  · subst h; simp
  · by_cases hk : k < cfg.disableBit.val
    · simp [h, hk]
    · have : k - cfg.disableBit.val ≠ 0 := by omega
      simp [h, this]

theorem clearDisable_getLsbD (cfg : Config) (c : ControlWord) (k : Nat) :
    (clearDisable cfg c).getLsbD k = if k = cfg.disableBit.val then false else c.getLsbD k := by
  by_cases hk : k < 16
  · simp only [clearDisable, BitVec.getLsbD_and, BitVec.getLsbD_not, disableMask_getLsbD, hk]
    split <;> simp [*]
  · rw [BitVec.getLsbD_of_ge _ _ (by omega), BitVec.getLsbD_of_ge _ _ (by omega), ite_self]

theorem setDisable_getLsbD (cfg : Config) (c : ControlWord) (k : Nat) :
    (setDisable cfg c).getLsbD k = if k = cfg.disableBit.val then true else c.getLsbD k := by
  simp only [setDisable, BitVec.getLsbD_or, disableMask_getLsbD]
  split <;> simp [*]

/-- SET_WAVE's control word is its two bytes. -/
theorem setWaveform_getLsbD (cfg : Config) (code : Byte) (c : ControlWord) (k : Nat) :
    (setWaveform cfg code c).getLsbD k =
      if k < 8 then (waveLow cfg code (ctrlLo c)).getLsbD k else (ctrlHi c).getLsbD (k - 8) :=
  BitVec.getLsbD_append (x := ctrlHi c) (y := waveLow cfg code (ctrlLo c))

theorem setWaveform_getLsbD_low (cfg : Config) (code : Byte) (c : ControlWord) (k : Nat) (hk : k < 8) :
    (setWaveform cfg code c).getLsbD k = ((c.getLsbD k && !cfg.waveClearMask.getLsbD k) || code.getLsbD k) := by
  simp [setWaveform_getLsbD, waveLow, ctrlLo, hk]

theorem setWaveform_getLsbD_high (cfg : Config) (code : Byte) (c : ControlWord) (k : Nat) (hk : 8 ≤ k) :
    (setWaveform cfg code c).getLsbD k = c.getLsbD k := by
  have h8 : ¬ k < 8 := by omega
  have e : 8 + (k - 8) = k := by omega
  rw [setWaveform_getLsbD, if_neg h8]
  by_cases h16 : k < 16
  · have h : k - 8 < 8 := by omega
    simp [ctrlHi, h, e]
  · rw [BitVec.getLsbD_of_ge _ _ (by omega), BitVec.getLsbD_of_ge _ _ (by omega)]

/-- The output state is enabled exactly when the disable bit is clear. -/
theorem outputState_eq_enabled (s : State) :
    s.outputState = .enabled ↔ s.ctrl.getLsbD s.cfg.disableBit.val = false := by
  simp only [State.outputState, outputStateOf]
  split <;> simp_all

/-- The output state is disabled exactly when the disable bit is set (10_state.md R27). -/
theorem outputState_eq_disabled (s : State) :
    s.outputState = .disabled ↔ s.ctrl.getLsbD s.cfg.disableBit.val = true := by
  simp only [State.outputState, outputStateOf]
  split <;> simp_all

end Sys2Proof.Machine
end

