-- ==== Sys2Proof/Laws/Encoder.lean ====
section
/-! SUPPORT. The encoder's domain and the bytes of a payload as numbers (spec/40_encoder.md R101 to R105). -/

namespace Sys2Proof.Machine

/-- A value in the domain is the operand's value and not negative (40_encoder.md R101). -/
theorem domainVal_eq_some {f : FreqOperand} {v : ExactFreq} :
    domainVal f = some v ↔ operandVal f = some v ∧ 0 ≤ v.num := by
  unfold domainVal
  cases h : operandVal f with
  | none => simp
  | some w =>
    by_cases hw : 0 ≤ w.num
    · simp only [hw, if_true, Option.some.injEq]
      exact ⟨fun e => ⟨e, e ▸ hw⟩, fun e => e.1⟩
    · simp only [hw, if_false, Option.some.injEq]
      exact ⟨nofun, fun e => absurd (e.1 ▸ e.2) hw⟩

theorem domainVal_eq_none {f : FreqOperand} :
    domainVal f = none ↔ ∀ v, operandVal f = some v → v.num < 0 := by
  unfold domainVal
  cases h : operandVal f with
  | none => simp
  | some w => simp only [Option.some.injEq, forall_eq', ite_eq_right_iff, reduceCtorEq, imp_false, not_le]

theorem tuningWord_of_domain {f : FreqOperand} {v : ExactFreq} (h : domainVal f = some v) (draw : TuningWord) :
    tuningWord f draw = BitVec.ofNat 28 (quantise v) := by
  simp [tuningWord, h]

theorem tuningWord_of_outside {f : FreqOperand} (h : domainVal f = none) (draw : TuningWord) :
    tuningWord f draw = draw := by
  simp [tuningWord, h]

/-- ORing a marker above a half's six bits adds it. -/
theorem markedByte_toNat (h : Half) (m : Byte) (hm : m.toNat % 2 ^ 6 = 0) :
    (markedByte h m).toNat = m.toNat + h.toNat / 2 ^ 8 := by
  have hh := h.isLt
  have hb : h.toNat / 2 ^ 8 < 2 ^ 6 := by omega
  have hs : m.toNat = 2 ^ 6 * (m.toNat / 2 ^ 6) := by omega
  have e : ((h.extractLsb' 8 6).setWidth 8).toNat = h.toNat / 2 ^ 8 := by
    simp only [BitVec.toNat_setWidth, BitVec.extractLsb'_toNat, Nat.shiftRight_eq_div_pow]
    omega
  rw [markedByte, BitVec.toNat_or, e, Nat.or_comm]
  conv_lhs => rw [hs]
  rw [← Nat.two_pow_add_eq_or_of_lt hb]
  omega

theorem marker0_low (mode : MarkerMode) : (marker0 mode).toNat % 2 ^ 6 = 0 := by cases mode <;> decide

theorem marker1_low (mode : MarkerMode) : (marker1 mode).toNat % 2 ^ 6 = 0 := by cases mode <;> decide

/-- A payload is its four bytes. -/
theorem payloadOf_getLsbD (mode : MarkerMode) (w : TuningWord) (k : Nat) :
    (payloadOf mode w).getLsbD k =
      if k < 16 then
        if k < 8 then (lowerByte (lowHalf w)).getLsbD k
        else (markedByte (lowHalf w) (marker1 mode)).getLsbD (k - 8)
      else if k - 16 < 8 then (lowerByte (highHalf w)).getLsbD (k - 16)
      else (markedByte (highHalf w) (marker0 mode)).getLsbD (k - 16 - 8) := by
  refine (BitVec.getLsbD_append (x := markedByte (highHalf w) (marker0 mode) ++ lowerByte (highHalf w))
    (y := markedByte (lowHalf w) (marker1 mode) ++ lowerByte (lowHalf w))).trans ?_
  simp only [BitVec.getLsbD_append]

theorem payloadOf_P0 (mode : MarkerMode) (w : TuningWord) :
    ((payloadOf mode w).extractLsb' 24 8).toNat = (marker0 mode).toNat + w.toNat / 2 ^ 22 := by
  have e : (payloadOf mode w).extractLsb' 24 8 = markedByte (highHalf w) (marker0 mode) := by
    apply BitVec.eq_of_getLsbD_eq; intro i hi
    have h1 : ¬ 24 + i < 16 := by omega
    have h2 : ¬ 24 + i - 16 < 8 := by omega
    have h3 : 24 + i - 16 - 8 = i := by omega
    simp only [BitVec.getLsbD_extractLsb', payloadOf_getLsbD, hi, h1, h2, h3, decide_true, Bool.true_and, if_false]
  have hw := w.isLt
  rw [e, markedByte_toNat _ _ (marker0_low mode)]
  simp only [highHalf, BitVec.extractLsb'_toNat, Nat.shiftRight_eq_div_pow]
  omega

theorem payloadOf_P1 (mode : MarkerMode) (w : TuningWord) :
    ((payloadOf mode w).extractLsb' 16 8).toNat = w.toNat / 2 ^ 14 % 2 ^ 8 := by
  have e : (payloadOf mode w).extractLsb' 16 8 = lowerByte (highHalf w) := by
    apply BitVec.eq_of_getLsbD_eq; intro i hi
    have h1 : ¬ 16 + i < 16 := by omega
    have h2 : 16 + i - 16 = i := by omega
    simp only [BitVec.getLsbD_extractLsb', payloadOf_getLsbD, hi, h1, h2, decide_true, Bool.true_and, if_false, if_true]
  rw [e]
  simp only [lowerByte, highHalf, BitVec.extractLsb'_toNat, Nat.shiftRight_eq_div_pow]
  omega

theorem payloadOf_P2 (mode : MarkerMode) (w : TuningWord) :
    ((payloadOf mode w).extractLsb' 8 8).toNat = (marker1 mode).toNat + w.toNat / 2 ^ 8 % 2 ^ 6 := by
  have e : (payloadOf mode w).extractLsb' 8 8 = markedByte (lowHalf w) (marker1 mode) := by
    apply BitVec.eq_of_getLsbD_eq; intro i hi
    have h1 : 8 + i < 16 := by omega
    have h2 : ¬ 8 + i < 8 := by omega
    have h3 : 8 + i - 8 = i := by omega
    simp only [BitVec.getLsbD_extractLsb', payloadOf_getLsbD, hi, h1, h2, h3, decide_true, Bool.true_and, if_false,
      if_true]
  rw [e, markedByte_toNat _ _ (marker1_low mode)]
  simp only [lowHalf, BitVec.extractLsb'_toNat, Nat.shiftRight_eq_div_pow]
  omega

theorem payloadOf_P3 (mode : MarkerMode) (w : TuningWord) :
    ((payloadOf mode w).extractLsb' 0 8).toNat = w.toNat % 2 ^ 8 := by
  have e : (payloadOf mode w).extractLsb' 0 8 = lowerByte (lowHalf w) := by
    apply BitVec.eq_of_getLsbD_eq; intro i hi
    have h1 : 0 + i < 16 := by omega
    have h2 : 0 + i < 8 := by omega
    have h3 : 0 + i = i := by omega
    simp only [BitVec.getLsbD_extractLsb', payloadOf_getLsbD, hi, h1, h2, if_true, decide_true, Bool.true_and]
    rw [h3]
  rw [e]
  simp only [lowerByte, lowHalf, BitVec.extractLsb'_toNat, Nat.shiftRight_eq_div_pow]
  omega

end Sys2Proof.Machine
end

