-- ==== Sys2Proof/Laws/Encoding.lean ====
section
/-! SUPPORT. A command word and its two fields (spec/30_encoding.md R60). -/

namespace Sys2Proof

theorem wordOf_getLsbD (op : BitVec 4) (arg : BitVec 32) (k : Nat) :
    (wordOf op arg).getLsbD k = if k < 32 then arg.getLsbD k else op.getLsbD (k - 32) :=
  BitVec.getLsbD_append (x := op) (y := arg)

theorem wordOp_wordOf (op : BitVec 4) (arg : BitVec 32) : wordOp (wordOf op arg) = op := by
  apply BitVec.eq_of_getLsbD_eq
  intro i hi
  simp [wordOp, wordOf_getLsbD, hi]

theorem wordArg_wordOf (op : BitVec 4) (arg : BitVec 32) : wordArg (wordOf op arg) = arg := by
  apply BitVec.eq_of_getLsbD_eq
  intro i hi
  simp [wordArg, wordOf_getLsbD, hi]

/-- A word is its two fields. -/
theorem wordOf_op_arg (w : CommandWord) : wordOf (wordOp w) (wordArg w) = w := by
  apply BitVec.eq_of_getLsbD_eq
  intro i hi
  by_cases h : i < 32
  · simp [wordArg, wordOf_getLsbD, h]
  · have h4 : i - 32 < 4 := by omega
    have h32 : 32 + (i - 32) = i := by omega
    simp [wordOp, wordOf_getLsbD, h, h4, h32]

/-- OP as a number is the word's top four bits. -/
theorem wordOp_toNat (w : CommandWord) : (wordOp w).toNat = w.toNat / 2 ^ 32 := by
  have hw := w.isLt
  simp only [wordOp, BitVec.extractLsb'_toNat, Nat.shiftRight_eq_div_pow]
  omega

/-- ARG as a number is the word's low 32 bits. -/
theorem wordArg_toNat (w : CommandWord) : (wordArg w).toNat = w.toNat % 2 ^ 32 := by
  simp [wordArg, BitVec.extractLsb'_toNat]

theorem append_code_getLsbD (unused : BitVec 24) (code : Byte) (k : Nat) :
    (unused ++ code : BitVec 32).getLsbD k = if k < 8 then code.getLsbD k else unused.getLsbD (k - 8) :=
  BitVec.getLsbD_append (x := unused) (y := code)

theorem argCode_append (unused : BitVec 24) (code : Byte) : argCode (unused ++ code) = code := by
  apply BitVec.eq_of_getLsbD_eq
  intro i hi
  simp only [argCode, BitVec.getLsbD_extractLsb', append_code_getLsbD]
  simp [hi]

theorem argAboveCode_append (unused : BitVec 24) (code : Byte) : argAboveCode (unused ++ code) = unused := by
  apply BitVec.eq_of_getLsbD_eq
  intro i hi
  simp only [argAboveCode, BitVec.getLsbD_extractLsb', append_code_getLsbD]
  simp [hi]

/-- SET_WAVE's operand bits are the ignored ones and the code. -/
theorem argAboveCode_append_argCode (arg : BitVec 32) : argAboveCode arg ++ argCode arg = arg := by
  apply BitVec.eq_of_getLsbD_eq
  intro i hi
  refine (append_code_getLsbD _ _ i).trans ?_
  by_cases h : i < 8
  · simp [argCode, h]
  · have h24 : i - 8 < 24 := by omega
    have h8 : 8 + (i - 8) = i := by omega
    simp [argAboveCode, h, h24, h8]

end Sys2Proof
end

