-- ==== Sys2Proof/Laws/PerInstr.lean ====
section
/-! SUPPORT. For every instruction: its encoding is a word that matches its row of spec/opcode_table.json, or, for an exact
SET_FREQ, no word at all (spec/30_encoding.md R63). -/

namespace Sys2Proof.Laws

/-- The OP of a row of the opcode table (30_encoding.md R61). -/
def opcodeOf : Instr → BitVec 4
  | .init _ => 0x1#4
  | .outputOn _ => 0x2#4
  | .outputOff _ => 0x3#4
  | .setFreq _ => 0x4#4
  | .setWave _ _ => 0x5#4

/-- The family: the word of `i` carries the OP of its row. -/
def MatchesTable.Statement (i : Instr) : Prop := ∀ w, encode i = .word w → wordOp w = opcodeOf i

theorem MatchesTable.init (arg : BitVec 32) : MatchesTable.Statement (.init arg) := by
  intro w h; cases h; exact wordOp_wordOf _ _

theorem MatchesTable.outputOn (arg : BitVec 32) : MatchesTable.Statement (.outputOn arg) := by
  intro w h; cases h; exact wordOp_wordOf _ _

theorem MatchesTable.outputOff (arg : BitVec 32) : MatchesTable.Statement (.outputOff arg) := by
  intro w h; cases h; exact wordOp_wordOf _ _

theorem MatchesTable.setFreq (f : FreqOperand) : MatchesTable.Statement (.setFreq f) := by
  intro w h
  cases f with
  | binary32 a => cases h; exact wordOp_wordOf _ _
  | rational f => cases h

theorem MatchesTable.setWave (unused : BitVec 24) (code : Byte) : MatchesTable.Statement (.setWave unused code) := by
  intro w h; cases h; exact wordOp_wordOf _ _

end Sys2Proof.Laws
end

