-- ==== Sys2Proof/Laws/Serial.lean ====
section
/-! SUPPORT. What a cycle of the bit-time view can do, said once (spec/30_encoding.md R75, spec/70_reset_and_hazards.md
R180 and R184). -/

namespace Sys2Proof.Machine

@[simp] theorem Shifter.idle_cmdReady : Shifter.idle.cmdReady = true := rfl
@[simp] theorem Shifter.idle_csN : Shifter.idle.csN = true := rfl
@[simp] theorem Shifter.idle_sdata (order : BitOrder) : Shifter.idle.sdata order = none := rfl
@[simp] theorem Shifter.start_cmdReady (c : ControlWord) (p : Payload) : (Shifter.start c p).cmdReady = false := rfl
@[simp] theorem Shifter.start_csN (c : ControlWord) (p : Payload) : (Shifter.start c p).csN = false := rfl
@[simp] theorem SerialBlock.reset_regs (b : SerialBlock) : b.reset.regs = powerOn b.regs := rfl
@[simp] theorem SerialBlock.reset_shifter (b : SerialBlock) : b.reset.shifter = Shifter.idle := rfl
@[simp] theorem SerialBlock.tick_regs (b : SerialBlock) : b.tick.regs = b.regs := rfl
@[simp] theorem SerialBlock.tick_shifter (b : SerialBlock) : b.tick.shifter = b.shifter.tick := rfl

theorem SerialBlock.clock_of_reset {p : PortInputs} (h : p.rstN = false) (b : SerialBlock) :
    b.clock p = .next b.reset := by
  simp [SerialBlock.clock, h]

theorem SerialBlock.clock_of_busy {p : PortInputs} {b : SerialBlock} (h : p.rstN = true)
    (hb : b.shifter.busy = true) : b.clock p = .next b.tick := by
  simp [SerialBlock.clock, Shifter.cmdReady, h, hb]

theorem SerialBlock.clock_of_ready {p : PortInputs} {b : SerialBlock} (h : p.rstN = true)
    (hb : b.shifter.busy = false) : b.clock p = b.settle (takeOffered exec p.offered b.regs) := by
  simp [SerialBlock.clock, Shifter.cmdReady, h, hb]

/-- Everything a next block can be after a command's step: its registers are that step's, and a transaction starts exactly
when the step sent one. -/
theorem SerialBlock.settle_next_cases {b b' : SerialBlock} {r : Result} (h : b.settle r = .next b') :
    ∃ t, r = .next t ∧ b'.regs = t ∧
      ((t.link = b.regs.link ∧ b'.shifter = b.shifter) ∨
        (t.link ≠ b.regs.link ∧ b'.shifter = Shifter.start t.ctrl t.payload)) := by
  cases r with
  | next t =>
    cases h
    refine ⟨t, rfl, rfl, ?_⟩
    by_cases hl : t.link = b.regs.link
    · exact .inl ⟨hl, if_pos hl⟩
    · exact .inr ⟨hl, if_neg hl⟩
  | fault => cases h
  | refused => cases h

/-- Everything a next block can be after a cycle at the ports: reset, a bit-time, or the step of an idle block. -/
theorem SerialBlock.clock_next_cases {p : PortInputs} {b b' : SerialBlock} (h : b.clock p = .next b') :
    (p.rstN = false ∧ b' = b.reset) ∨ (p.rstN = true ∧ b.shifter.busy = true ∧ b' = b.tick) ∨
      (p.rstN = true ∧ b.shifter.busy = false ∧ b.settle (takeOffered exec p.offered b.regs) = .next b') := by
  cases hr : p.rstN with
  | false => rw [clock_of_reset hr] at h; cases h; exact .inl ⟨rfl, rfl⟩
  | true =>
    cases hb : b.shifter.busy with
    | true => rw [clock_of_busy hr hb] at h; cases h; exact .inr (.inl ⟨rfl, rfl, rfl⟩)
    | false => rw [clock_of_ready hr hb] at h; exact .inr (.inr ⟨rfl, rfl, h⟩)

end Sys2Proof.Machine
end

