-- ==== Sys2Proof/Tests/Slice0.lean ====
section
/-! SUPPORT. The model's own tests: expected results come from the tables of spec/95_test_vectors.md, the worked examples
of spec/40_encoder.md and spec/41_commands.md, and words written out from spec/30_encoding.md R60 and R61. The last part
shows, for each obligation with hypotheses, a concrete case that meets them. -/

namespace Sys2Proof.Tests

open Sys2Proof.Machine

/-! ### Small states and readers -/

/-- The starting states of table W (RI-1): LINK_READY = 1 and PAYLOAD = 0x4000A9F1. -/
def ready (ctrl : ControlWord) : State :=
  { ctrl := ctrl, payload := 0x4000A9F1#32, csN := true, linkReady := true, faulted := false, refused := false,
    link := [], pending := [], draws := 1, cfg := Config.ri1 }

/-- The parameters of vector K6: DISABLE_BIT = 3, WAVE_CLEAR_MASK = 0x22. -/
def k6 : Config :=
  { Config.ri1 with disableBit := 3, waveClearMask := 0x22#8, codeSquare := 0x20#8 }

/-- The starting state of vector K6. -/
def readyK6 (ctrl : ControlWord) : State := { ready ctrl with cfg := k6 }

/-- `[c_hi c_lo P0 P1 P2 P3]` of 95_test_vectors.md. -/
def tx (bytes : List Byte) : List LinkEvent := .assert :: bytes.map .byte ++ [.deassert]

/-- CTRL and the link after a step or a command that goes on. -/
def ctrlAndLink : Result → Option (ControlWord × List LinkEvent)
  | .next t => some (t.ctrl, t.link)
  | .fault _ => none
  | .refused _ => none

/-- PAYLOAD and the link after a step or a command that goes on. -/
def payloadAndLink : Result → Option (Payload × List LinkEvent)
  | .next t => some (t.payload, t.link)
  | .fault _ => none
  | .refused _ => none

/-- The recorded command and the marks of a final state that is not a success. -/
def recorded : Result → Option (Command × Bool × Bool × List LinkEvent)
  | .fault (.notInitialised c t) => some (c, t.faulted, t.refused, t.link)
  | .refused (.reservedOpcode c t) => some (c, t.faulted, t.refused, t.link)
  | _ => none

/-- From power-on reset under RI-1 with one command offered (table X). -/
def offered (w : CommandWord) : State := (State.resetUnder Config.ri1 0).withPending [.word w]

/-! ### WellFormed: each check refuses an ill-formed term -/

/-- R63: no operand has a denominator of 0. -/
theorem test_no_operand_has_zero_denominator (f : ExactFreq) : f.den ≠ 0 := Nat.pos_iff_ne_zero.mp f.den_pos

theorem test_inFormat_accepts_every_pattern :
    (Instr.setFreq (.binary32 0x7FC00000#32)).inFormat .binary32 = true := by decide

theorem test_inFormat_refuses_other_format :
    (Instr.setFreq (.rational { num := 1, den := 2 })).inFormat .binary32 = false ∧
    (Instr.setFreq (.binary32 0#32)).inFormat .rational = false := by decide

theorem test_command_inFormat_refuses_set_freq_word_under_rational :
    (Command.word 0x4447A0000#36).inFormat .rational = false ∧
    (Command.word 0x500000000#36).inFormat .rational = true ∧
    (Command.exactFreq { num := 1, den := 2 }).inFormat .binary32 = false := by decide

/-! ### Decoding: words written out bit by bit from 30_encoding.md R61 -/

theorem test_decode_init :
    decodeWord 0b0001_00000000000000000000000000000000#36 = .command (.init 0#32) := by decide

/-- W13's word: ARG is ignored and kept. -/
theorem test_decode_output_on :
    decodeWord 0b0010_11011110101011011011111011101111#36 = .command (.outputOn 0xDEADBEEF#32) := by decide

theorem test_decode_output_off :
    decodeWord 0b0011_00000000000000000000000000000000#36 = .command (.outputOff 0#32) := by decide

/-- W14's word: 1000.0 Hz. -/
theorem test_decode_set_freq :
    decodeWord 0b0100_01000100011110100000000000000000#36 = .command (.setFreq (.binary32 0x447A0000#32)) := by decide

/-- W12's word: `ARG[31:8]` set. -/
theorem test_decode_set_wave :
    decodeWord 0b0101_11111111111111111111111100101000#36 = .command (.setWave 0xFFFFFF#24 0x28#8) := by decide

theorem test_decode_reserved :
    decodeWord 0x000000000#36 = .reserved ∧ decodeWord 0x600000000#36 = .reserved ∧
    decodeWord 0xF00000000#36 = .reserved := by decide

/-- The rows of spec/opcode_table.json, mask 0xF00000000: no word matches two of them. -/
theorem test_table_rows_are_disjoint :
    [0x100000000#36, 0x200000000#36, 0x300000000#36, 0x400000000#36, 0x500000000#36].Pairwise
      (fun a b => a &&& 0xF00000000#36 ≠ b &&& 0xF00000000#36) := by decide

theorem test_encode_words :
    encode (.init 0#32) = .word 0x100000000#36 ∧ encode (.outputOn 0xDEADBEEF#32) = .word 0x2DEADBEEF#36 ∧
    encode (.outputOff 0#32) = .word 0x300000000#36 ∧
    encode (.setFreq (.binary32 0x447A0000#32)) = .word 0x4447A0000#36 ∧
    encode (.setWave 0xFFFFFF#24 0x28#8) = .word 0x5FFFFFF28#36 := by decide

/-- The host's placing of a word makes it the next command, and the decoder reads the same one. -/
theorem test_withFetchWord_is_next :
    ((ready 0x2000#16).withFetchWord 40 0x5FFFFFF28).pending = [.word 0x5FFFFFF28#36] ∧
    decodeTableWord 40 0x5FFFFFF28 = some (.setWave 0xFFFFFF#24 0x28#8) := by decide

/-- From reset with nothing else placed, INIT goes on and a transmitting command faults by its rule (R165). -/
theorem test_first_command_after_reset :
    (∃ t, step (State.reset.withFetchWord 40 0x100000000) = .next t) ∧
    recorded (step (State.reset.withFetchWord 40 0x200000000)) = some (.word 0x200000000#36, true, false, []) :=
  ⟨⟨_, rfl⟩, by decide⟩

/-! ### The encoder: table E and the marker modes -/

/-- Table E, the in-domain rows of PER_HALF with a binary32 operand: operand and payload. -/
def tableE : List (BitVec 32 × Payload) :=
  [(0x00000000#32, 0x40008000#32), (0x80000000#32, 0x40008000#32), (0x00000001#32, 0x40008000#32),
    (0x00800000#32, 0x40008000#32), (0x3DBEBC1F#32, 0x40008000#32), (0x3DBEBC20#32, 0x40008001#32),
    (0x3F800000#32, 0x4000800A#32), (0x42C80000#32, 0x40008431#32), (0x43DC0000#32, 0x40009274#32),
    (0x447A0000#32, 0x4000A9F1#32), (0x44BEBC1F#32, 0x4000BFFF#32), (0x44BEBC20#32, 0x40018000#32),
    (0x49742400#32, 0x428F970A#32), (0x4B189680#32, 0x5999A666#32), (0x4B3EBC1F#32, 0x5FFFBFF5#32),
    (0x4B3EBC20#32, 0x60008000#32), (0x4BBEBC1F#32, 0x7FFFBFEA#32), (0x4BBEBC20#32, 0x40008000#32),
    (0x4C0F0D18#32, 0x60008000#32), (0x4C3EBC20#32, 0x40008000#32), (0x7F7FFFFF#32, 0x6B549068#32)]

theorem test_encode_table_E :
    tableE.all (fun r => encodeFrequency .perHalf (.binary32 r.1) 0#28 == r.2) = true := by decide

/-- E26: RATIONAL 24,999,999.95 Hz reaches the largest tuning word. -/
theorem test_encode_rational_E26 :
    encodeFrequency .perHalf (.rational { num := 499999999, den := 20 }) 0#28 = 0x7FFFBFFF#32 := by decide

/-- E22 to E25: the operands outside the domain, and the layout of whatever word they draw. -/
theorem test_encode_out_of_domain :
    [0xBF800000#32, 0x7F800000#32, 0xFF800000#32, 0x7FC00000#32].all
      (fun a => domainVal (.binary32 a) == none && encodeFrequency .perHalf (.binary32 a) 0xFFFFFFF#28 == 0x7FFFBFFF#32)
      = true := by decide

theorem test_marker_modes :
    encodeFrequency .perHalf (.binary32 0x447A0000#32) 0#28 = 0x4000A9F1#32 ∧
    encodeFrequency .bothSlot0 (.binary32 0x447A0000#32) 0#28 = 0x400069F1#32 ∧
    encodeFrequency .bothSlot1 (.binary32 0x447A0000#32) 0#28 = 0x8000A9F1#32 := by decide

/-- R108's check of E13. -/
theorem test_payload_decodes_E13 : payloadTuningWord 0x428F970A#32 = 0x0A3D70A#28 := by decide

/-! ### The transmitter: T1 at bit level -/

theorem test_transaction_bits_T1 :
    serialBits .msbFirst (transaction 0x2000#16 0x4000A9F1#32) =
      (List.range 48).map (fun k => (0b001000000000000001000000000000001010100111110001#48).getLsbD (47 - k)) ∧
    serialBits .lsbFirst (transaction 0x2000#16 0x4000A9F1#32) =
      (List.range 48).map (fun k => (0b000001000000000000000010000000001001010110001111#48).getLsbD (47 - k)) := by decide

/-! ### The ports -/

/-- `rst_n` high and a command word offered. -/
def offering (w : CommandWord) : PortInputs := { rstN := true, cmdValid := true, cmd := .word w }

/-- `rst_n` low, with a command offered all the same. -/
def lowReset : PortInputs := { offering 0x300000000#36 with rstN := false }

/-- In the middle of T1's transaction: CTRL = 0x2000, at bit 41. -/
def sending : SerialBlock :=
  { regs := ready 0x2000#16, shifter := { busy := true, position := 41, snapshot := 0x20004000A9F1#48 } }

/-- The inputs' levels give the outputs' levels, and T1's bit 41 (the second bit of the byte 0xF1) is 1. -/
theorem test_outputs_in_transaction :
    sending.outputs (offering 0x300000000#36) = { cmdReady := false, csN := false, sdata := some true } ∧
    sending.outputs lowReset = { cmdReady := false, csN := true, sdata := none } ∧
    sending.accepts (offering 0x300000000#36) = false := by decide

/-- R184: the offered command is held, and the registers stay. -/
theorem test_clock_holds_offered_command :
    sending.clock (offering 0x300000000#36) =
      .next { regs := ready 0x2000#16, shifter := { busy := true, position := 42, snapshot := 0x20004000A9F1#48 } } := by
  rfl

/-- R180: low `rst_n` in the middle of a transaction. -/
theorem test_clock_reset_in_transaction :
    sending.clock lowReset = .next { regs := State.resetUnder Config.ri1 1, shifter := Shifter.idle } := by rfl

/-! ### The commands: tables K, W and X, one step each -/

/-- K1: INIT writes LINK_READY and cs_n and emits nothing. -/
theorem test_init_K1 :
    exec (.init 0xFFFFFFFF#32) { ready 0x2100#16 with linkReady := false } = .next (ready 0x2100#16) := by rfl

/-- X-table start: INIT is the one command allowed while LINK_READY = 0. -/
theorem test_init_from_reset : ctrlAndLink (step (offered 0x100000000#36)) = some (0x2100#16, []) := by decide

/-- W13: OUTPUT_ON with a non-zero ARG. -/
theorem test_output_on_W13 :
    ctrlAndLink (exec (.outputOn 0xDEADBEEF#32) (ready 0x2100#16)) =
      some (0x2000#16, tx [0x20#8, 0x00#8, 0x40#8, 0x00#8, 0xA9#8, 0xF1#8]) := by decide

/-- X1: before INIT it faults, recording the word. -/
theorem test_output_on_X1 :
    recorded (step (offered 0x200000000#36)) = some (.word 0x200000000#36, true, false, []) := by decide

/-- W7: OUTPUT_OFF keeps the waveform. -/
theorem test_output_off_W7 :
    ctrlAndLink (exec (.outputOff 0#32) (ready 0x2028#16)) =
      some (0x2128#16, tx [0x21#8, 0x28#8, 0x40#8, 0x00#8, 0xA9#8, 0xF1#8]) := by decide

/-- W14: SET_FREQ while disabled is applied. -/
theorem test_set_freq_W14 :
    payloadAndLink (exec (.setFreq (.binary32 0x49742400#32)) (ready 0x2100#16)) =
      some (0x428F970A#32, tx [0x21#8, 0x00#8, 0x42#8, 0x8F#8, 0x97#8, 0x0A#8]) := by decide

/-- X7: -1.0 Hz does not fault; it takes the draw the counter names. -/
theorem test_set_freq_X7 :
    exec (.setFreq (.binary32 0xBF800000#32)) (ready 0x2100#16) =
      .next (transmit ((ready 0x2100#16).setPayload (payloadOf .perHalf (Config.freeTuningWord 1))).countDraw) := by rfl

/-- W5: one shape replaces another. -/
theorem test_set_wave_W5 :
    ctrlAndLink (exec (.setWave 0#24 0x02#8) (ready 0x2028#16)) =
      some (0x2002#16, tx [0x20#8, 0x02#8, 0x40#8, 0x00#8, 0xA9#8, 0xF1#8]) := by decide

/-- W10: a stray bit outside the mask stays. -/
theorem test_set_wave_W10 :
    ctrlAndLink (exec (.setWave 0#24 0x00#8) (ready 0x2001#16)) =
      some (0x2001#16, tx [0x20#8, 0x01#8, 0x40#8, 0x00#8, 0xA9#8, 0xF1#8]) := by decide

/-- K6: an invalid code sets a disable bit in the low byte. -/
theorem test_set_wave_K6 :
    outputStateOf k6 (setWaveform k6 0x08#8 0x0000#16) = .disabled ∧
    clearDisable k6 0x0008#16 = 0x0000#16 := by decide

/-- X4: a reserved word before INIT is refused, not faulted. -/
theorem test_reserved_X4 :
    recorded (step (offered 0x000000000#36)) = some (.word 0x000000000#36, false, true, []) := by decide

/-! ### The assembler: program P1's text -/

theorem test_assemble_P1 :
    assembleText Config.ri1
      ["init                    ; 0x100000000".toList, "set_freq 1000.0".toList, "set_wave square".toList, "".toList,
        "output_on".toList] =
      some [.word 0x100000000#36, .word 0x4447A0000#36, .word 0x500000028#36, .word 0x200000000#36] := by decide

theorem test_assemble_patterns :
    assembleText Config.ri1 ["set_freq 0xBF800000".toList, "set_wave 0x01".toList, "set_freq -1.0".toList] =
      some [.word 0x4BF800000#36, .word 0x500000001#36, .word 0x4BF800000#36] := by decide

/-- R71: a decimal that is no binary32 value is rejected. -/
theorem test_assemble_rejects_inexact_decimal :
    assembleText Config.ri1 ["set_freq 0.1".toList] = none ∧ assembleText Config.ri1 ["set_wave".toList] = none := by decide

/-! ### Witnesses: a case that meets the hypotheses of each obligation -/

theorem witness_ri1_and_k6_are_legal : Config.ri1.legal = true ∧ k6.legal = true := by decide

theorem witness_ResetLeavesSpecValues : ∃ s, powerOn s = powerOn (ready 0x2000#16) := ⟨_, rfl⟩

theorem witness_DecodeThenEncode :
    decode (.word 0x5FFFFFF28#36) = .command (.setWave 0xFFFFFF#24 0x28#8) ∧
    (Command.word 0x5FFFFFF28#36).inFormat .rational = true ∧
    decode (.exactFreq { num := 1, den := 1 }) = .command (.setFreq (.rational { num := 1, den := 1 })) ∧
    (Command.exactFreq { num := 1, den := 1 }).inFormat .rational = true := by decide

/-- Every OP of 30_encoding.md R61 at the edges of its clause. -/
theorem witness_DecodingReadsOpAlone :
    (0x0FFFFFFFF#36).toNat / 2 ^ 32 = 0 ∧ (0x100000000#36).toNat / 2 ^ 32 = 1 ∧
    (0x2FFFFFFFF#36).toNat / 2 ^ 32 = 2 ∧ (0x300000000#36).toNat / 2 ^ 32 = 3 ∧ (0x4FFFFFFFF#36).toNat / 2 ^ 32 = 4 ∧
    (0x5FFFFFFFF#36).toNat / 2 ^ 32 = 5 ∧ 6 ≤ (0x600000000#36).toNat / 2 ^ 32 ∧
    6 ≤ (0xFFFFFFFFF#36).toNat / 2 ^ 32 := by decide

/-- Also of StepKeepsInvariant's, RegistersHaveOnlyTheirWriters's and StepSendsUpdatedRegistersOnce's step. -/
theorem witness_StepRunsDecodedCommand :
    (offered 0x200000000#36).pending = .word 0x200000000#36 :: [] ∧
    decode (.word 0x200000000#36) = .command (.outputOn 0#32) := by decide

theorem witness_ReservedWordRefused :
    (offered 0x600000000#36).faulted = false ∧ (offered 0x600000000#36).refused = false ∧
    (offered 0x600000000#36).pending = .word 0x600000000#36 :: [] ∧ 6 ≤ (0x600000000#36).toNat / 2 ^ 32 := by decide

/-- Also of the clauses on a link that is not ready in OutputOnClearsDisableBit, OutputOffSetsDisableBit and
SetWaveReplacesMaskedBits. -/
theorem witness_TransmitBeforeInitFaults :
    (offered 0x200000000#36).faulted = false ∧ (offered 0x200000000#36).refused = false ∧
    (offered 0x200000000#36).linkReady = false ∧ ∀ arg, Instr.outputOn 0#32 ≠ .init arg :=
  ⟨rfl, rfl, rfl, nofun⟩

theorem witness_EndedRunHasNoStep :
    (ready 0#16).markFaulted.faulted = true ∧ (ready 0#16).markRefused.refused = true ∧
    step (ready 0#16) = .next (ready 0#16) := ⟨rfl, rfl, rfl⟩

/-- One case for each clause of the order of checks. -/
theorem witness_ChecksRunInOrder :
    (offered 0x600000000#36).markRefused.refused = true ∧
    (offered 0x600000000#36).linkReady = false ∧ decode (.word 0x600000000#36) = .reserved ∧
    (offered 0x200000000#36).linkReady = false ∧ decode (.word 0x200000000#36) = .command (.outputOn 0#32) ∧
    decode (.word 0x100000000#36) = .command (.init 0#32) ∧
    ((ready 0#16).withPending [.word 0x200000000#36]).linkReady = true := by decide

theorem witness_NoCommandOfferedWaits :
    (ready 0#16).faulted = false ∧ (ready 0#16).refused = false ∧ (ready 0#16).pending = [] := by decide

theorem witness_InitSetsUpLink :
    (offered 0x100000000#36).faulted = false ∧ (offered 0x100000000#36).refused = false := by decide

/-- The hypotheses of OutputOnClearsDisableBit, OutputOffSetsDisableBit, SetWaveReplacesMaskedBits, WaveformIsIdempotent
and EnableRoundTrip, with the disable bit in the low byte and in the high byte. -/
theorem witness_running_and_ready :
    (ready 0x2100#16).faulted = false ∧ (ready 0x2100#16).refused = false ∧ (ready 0x2100#16).linkReady = true ∧
    (readyK6 0x0008#16).faulted = false ∧ (readyK6 0x0008#16).refused = false ∧
    (readyK6 0x0008#16).linkReady = true := by decide

/-- In the domain, at 1000.0 Hz, at -0 (the edge) and at an exact operand. -/
theorem witness_SetFreqLoadsTuningWord :
    (operandVal (.binary32 0x447A0000#32)).any (fun v => 0 ≤ v.num) = true ∧
    (operandVal (.binary32 0x80000000#32)).any (fun v => v.num == 0) = true ∧
    (operandVal (.rational { num := 0, den := 1 })).any (fun v => 0 ≤ v.num) = true := by decide

/-- Outside the domain: no value, and the negative pattern next to -0. -/
theorem witness_SetFreqOutOfDomainDraws :
    (∀ v, operandVal (.binary32 0x7F800000#32) = some v → v.num < 0) ∧
    (operandVal (.binary32 0x80000001#32)).all (fun v => v.num < 0) = true :=
  ⟨fun v h => (nomatch (show (none : Option ExactFreq) = some v from h)), by decide⟩

/-- A next state of each command; also of RegistersHaveOnlyTheirWriters, SetFreqForgetsOldPayload,
OutputStateIsIndependent and WaveCodeOnlyEverDisables. -/
theorem witness_CommandsLeaveTheRestUnchanged :
    (∃ t, exec (.init 0#32) (ready 0#16) = .next t) ∧ (∃ t, exec (.outputOn 0#32) (ready 0#16) = .next t) ∧
    (∃ t, exec (.outputOff 0#32) (ready 0#16) = .next t) ∧
    (∃ t, exec (.setFreq (.binary32 0xBF800000#32)) (ready 0#16) = .next t) ∧
    (∃ t, exec (.setWave 0#24 0xFF#8) (ready 0#16) = .next t) :=
  ⟨⟨_, rfl⟩, ⟨_, rfl⟩, ⟨_, rfl⟩, ⟨_, rfl⟩, ⟨_, rfl⟩⟩

/-- Steps that do change CTRL, PAYLOAD and LINK_READY. -/
theorem witness_RegistersHaveOnlyTheirWriters :
    (ctrlAndLink (step ((ready 0x2100#16).withPending [.word 0x200000000#36]))).any (fun r => r.1 != 0x2100#16) = true ∧
    (payloadAndLink (step ((ready 0x2100#16).withPending [.word 0x443DC0000#36]))).any
      (fun r => r.1 != 0x4000A9F1#32) = true ∧
    (∃ t, step (offered 0x100000000#36) = .next t ∧ t.linkReady ≠ (offered 0x100000000#36).linkReady) :=
  ⟨by decide, by decide, _, rfl, by decide⟩

/-- Two next states of SET_FREQ from states with different old payloads. -/
theorem witness_SetFreqForgetsOldPayload :
    (∃ t, exec (.setFreq (.binary32 0x447A0000#32)) (ready 0x2100#16) = .next t) ∧
    (∃ u, exec (.setFreq (.binary32 0x447A0000#32))
      { ready 0x2100#16 with payload := 0#32, ctrl := 0#16, link := [] } = .next u) :=
  ⟨⟨_, rfl⟩, ⟨_, rfl⟩⟩

/-- Legal parameters, a legal code, and two control words that differ in the disable bit alone. -/
theorem witness_OutputStateIsIndependent :
    (readyK6 0x0008#16).cfg.legal = true ∧
    (∃ t, exec (.setWave 0#24 (k6.waveCode .square)) (readyK6 0x0008#16) = .next t) ∧
    (∀ k, k ≠ k6.disableBit.val → (0x0000#16).getLsbD k = (0x0008#16).getLsbD k) ∧
    (∃ t, exec (.outputOn 0#32) (readyK6 0x0008#16) = .next t) := by
  refine ⟨by decide, ⟨_, rfl⟩, fun k hk => ?_, ⟨_, rfl⟩⟩
  by_cases h : k < 16
  · have : ∀ j : Fin 16, j.val ≠ 3 → (0x0000#16).getLsbD j.val = (0x0008#16).getLsbD j.val := by decide
    exact this ⟨k, h⟩ hk
  · rw [BitVec.getLsbD_of_ge _ _ (by omega), BitVec.getLsbD_of_ge _ _ (by omega)]

/-- K6: a disable bit in the low byte and a code that has it. -/
theorem witness_WaveCodeOnlyEverDisables :
    (readyK6 0#16).cfg.legal = true ∧ (readyK6 0#16).cfg.disableBit.val < 8 ∧
    (0x08#8).getLsbD (readyK6 0#16).cfg.disableBit.val = true ∧
    (∃ t, exec (.setWave 0#24 0x08#8) (readyK6 0#16) = .next t) ∧
    (readyK6 0x0008#16).outputState = .disabled := ⟨by decide, by decide, by decide, ⟨_, rfl⟩, by decide⟩

/-- P4: bit 0 is outside WAVE_CLEAR_MASK of RI-1 and set. -/
theorem witness_StrayWaveBitsStay :
    (∃ t, step ((ready 0x2001#16).withPending [.word 0x500000000#36]) = .next t) ∧
    Config.ri1.waveClearMask.getLsbD 0 = false ∧ 0 ≠ Config.ri1.disableBit.val ∧ (0x2001#16).getLsbD 0 = true :=
  ⟨⟨_, rfl⟩, by decide, by decide, by decide⟩

theorem witness_SameFrequencyTwiceSendsTheSame : (domainVal (.binary32 0x447A0000#32)).isSome = true := by decide

/-- An infinity, zero, the smallest normal and the largest finite pattern. -/
theorem witness_Binary32ValueIsExact :
    binary32Exponent 0x7F800000#32 = 255 ∧ binary32Exponent 0x00000000#32 = 0 ∧ binary32Exponent 0x00800000#32 = 1 ∧
    binary32Exponent 0x7F7FFFFF#32 = 254 := by decide

/-- Values in the domain, also of TuningWordBelowAndAboveReference, LargestBinary32TuningWord and
SameResolutionStepSamePayload: 1 Hz, and F_REF above it. -/
theorem witness_QuantisationIsExactFloor :
    domainVal (.rational { num := 1, den := 1 }) = some { num := 1, den := 1 } ∧
    domainVal (.rational { num := 25000001, den := 1 }) = some { num := 25000001, den := 1 } := by decide

theorem witness_TuningWordBelowAndAboveReference :
    ((1 : ℚ) / 1 < 25000000) ∧ ((25000001 : ℚ) / 1 = 1 / 1 + 25000000) := by norm_num

theorem witness_LargestBinary32TuningWord :
    domainVal (.binary32 0x3F800000#32) = some { num := 2 ^ 23, den := 2 ^ 23 } ∧
    ((2 ^ 23 : ℚ) / 2 ^ 23 < 25000000) := ⟨by decide, by norm_num⟩

/-- 1 Hz and 1/1 Hz as 2/2 lie in step 10 of the tuning word. -/
theorem witness_SameResolutionStepSamePayload :
    domainVal (.rational { num := 1, den := 1 }) = some { num := 1, den := 1 } ∧
    domainVal (.rational { num := 101, den := 100 }) = some { num := 101, den := 100 } ∧
    ((10 : ℚ) * 25000000 / 2 ^ 28 ≤ 1 / 1 ∧ (1 : ℚ) / 1 < (10 + 1) * 25000000 / 2 ^ 28) ∧
    ((10 : ℚ) * 25000000 / 2 ^ 28 ≤ 101 / 100 ∧ (101 : ℚ) / 100 < (10 + 1) * 25000000 / 2 ^ 28) :=
  ⟨by decide, by decide, by norm_num, by norm_num⟩

theorem witness_PayloadDecodesToTuningWord :
    0x4000A9F1#32 = encodeFrequency .perHalf (.binary32 0x447A0000#32) 0#28 := by decide

/-- Steps that send, that wait and that run INIT. -/
theorem witness_StepSendsUpdatedRegistersOnce :
    (∃ t, step ((ready 0x2100#16).withPending [.word 0x200000000#36]) = .next t) ∧
    (∃ t, step (ready 0x2100#16) = .next t) ∧ (∃ t, step (offered 0x100000000#36) = .next t) :=
  ⟨⟨_, rfl⟩, ⟨_, rfl⟩, ⟨_, rfl⟩⟩

theorem witness_SelectIsLowAtEveryByte :
    wholeTransactions (transaction 0x2000#16 0x4000A9F1#32) = true ∧
    transaction 0x2000#16 0x4000A9F1#32 =
      [.assert] ++ .byte 0x20#8 ::
        [.byte 0x00#8, .byte 0x40#8, .byte 0x00#8, .byte 0xA9#8, .byte 0xF1#8, .deassert] := by decide

theorem witness_SerialBlockRefinesStep :
    ∃ t, step ((ready 0x2100#16).withPending [.word 0x200000000#36]) = .next t ∧
      t.link ≠ ((ready 0x2100#16).withPending [.word 0x200000000#36]).link := ⟨_, rfl, by decide⟩

/-- `rst_n` low and every other input at will. -/
theorem witness_LowResetPortRestartsTheBlock : lowReset.rstN = false ∧ sending.shifter.busy = true := by decide

theorem witness_AcceptedCommandHoldsThePorts :
    (offering 0x200000000#36).rstN = true ∧ (offering 0x200000000#36).cmdValid = true ∧
    decode (offering 0x200000000#36).cmd = .command (.outputOn 0#32) ∧ transmits (.outputOn 0#32) = true ∧
    (∃ t, exec (.outputOn 0#32) (ready 0x2100#16) = .next t) ∧
    (∀ q ∈ List.replicate 48 (offering 0x300000000#36), q.rstN = true) ∧
    (List.replicate 48 (offering 0x300000000#36)).length = 48 := ⟨rfl, rfl, by decide, rfl, ⟨_, rfl⟩, by decide, rfl⟩

/-- A busy block and an idle one, with a command in the queue. -/
theorem witness_QueueCycleIsPortCycle :
    ((ready 0x2100#16).withPending [.word 0x200000000#36]).pending = .word 0x200000000#36 :: [] ∧
    sending.shifter.busy = true ∧ Shifter.idle.busy = false := by decide

/-- A state for each of the three clauses: X1, X4, and an ended run. -/
theorem witness_StepHasTheSpecsOutcomes :
    stepOutcome (offered 0x200000000#36) = some (.fault .notInitialised) ∧
    stepOutcome (offered 0x000000000#36) = some (.refused .reservedOpcode) ∧
    stepOutcome (offered 0x100000000#36).markFaulted = none := by decide

/-- In the middle of a transaction, and cycles that go on from there: a bit-time and a reset. -/
theorem witness_PortCycleKeepsInvariant :
    SerialInv sending ∧ (∃ b', sending.clock (offering 0x300000000#36) = .next b') ∧
    (∃ b', sending.clock lowReset = .next b') ∧ ∃ b', sending.cycle = .next b' :=
  ⟨⟨⟨by decide, rfl, rfl, nofun⟩, fun _ => by decide, fun _ => rfl⟩, ⟨_, rfl⟩, ⟨_, rfl⟩, _, rfl⟩

theorem witness_StepKeepsInvariant :
    Inv ((ready 0x2100#16).withPending [.word 0x200000000#36]) ∧
    ∃ t, step ((ready 0x2100#16).withPending [.word 0x200000000#36]) = .next t :=
  ⟨⟨by decide, rfl, rfl, nofun⟩, _, rfl⟩

/-- From RI-1's power-on state, where the fixed flags hold, a step that goes on. -/
theorem witness_StepKeepsFixedFlags :
    FixedFlags (offered 0x100000000#36) ∧ ∃ t, step (offered 0x100000000#36) = .next t :=
  ⟨⟨fun _ _ _ _ => rfl, fun _ _ _ _ h => h⟩, _, rfl⟩

theorem witness_StepKeepsHostFormat :
    (offered 0x4447A0000#36).hostKeepsFormat = true ∧
    ∃ t, step ((ready 0#16).withPending [.word 0x4447A0000#36]) = .next t := ⟨by decide, _, rfl⟩

theorem witness_OfferedCommandsAllComplete :
    ((ready 0#16).withPending [.word 0x200000000#36, .word 0x100000000#36]).linkReady = true ∧
    ∀ cmd ∈ [Command.word 0x200000000#36, .word 0x100000000#36], ∃ i, decode cmd = .command i := by
  refine ⟨rfl, fun cmd h => ?_⟩
  simp only [List.mem_cons, List.not_mem_nil, or_false] at h
  rcases h with rfl | rfl
  · exact ⟨.outputOn 0#32, by decide⟩
  · exact ⟨.init 0#32, by decide⟩

/-- 1000.0 as a decimal: assembled, and the value of a pattern. -/
theorem witness_DecimalsAssembleExactly :
    binary32Of { num := 10000, den := 10 } = some 0x447A0000#32 ∧
    binary32Val 0x447A0000#32 = some { num := 16384000, den := 16384 } ∧
    ((16384000 : ℚ) / 16384 = 10000 / 10) := ⟨by decide, by decide, by norm_num⟩

end Sys2Proof.Tests
end

section
/-! The constraints of 00_scope.md R6 on the parameters, read off the Boolean check, and what they say of
CTRL's updates. -/

namespace Sys2Proof

/-- A claim about every shape is one about each of the three. -/
theorem Shape.forall_iff {P : Shape → Prop} : (∀ shape, P shape) ↔ P .sine ∧ P .triangle ∧ P .square :=
  ⟨fun h => ⟨h _, h _, h _⟩, fun ⟨hsine, htriangle, hsquare⟩ shape => by cases shape <;> assumption⟩

/-- R6 item 2 needs no case on `DISABLE_BIT < 8`: a byte has no bit above 7. -/
theorem OpenParams.sparesDisableBit_iff (p : OpenParams) (b : Byte) :
    p.sparesDisableBit b = true ↔ b.getLsbD p.disableBit.val = false := by
  by_cases h : 8 ≤ p.disableBit.val
  · simp [sparesDisableBit, h]
  · simp [sparesDisableBit, h]

/-- R6 item 3 pair by pair: the codes are distinct exactly when a code tells its shape. -/
theorem OpenParams.waveCode_injective_iff (p : OpenParams) :
    (∀ shape shape', p.waveCode shape = p.waveCode shape' → shape = shape') ↔
      (p.codeSine ≠ p.codeTriangle ∧ p.codeSine ≠ p.codeSquare) ∧ p.codeTriangle ≠ p.codeSquare := by
  constructor
  · intro h
    exact ⟨⟨fun e => (nomatch h .sine .triangle e), fun e => (nomatch h .sine .square e)⟩,
      fun e => (nomatch h .triangle .square e)⟩
  · rintro ⟨⟨hst, hsq⟩, htq⟩ shape shape' e
    match shape, shape', e with
    | .sine, .sine, _ | .triangle, .triangle, _ | .square, .square, _ => rfl
    | .sine, .triangle, e => exact absurd e hst
    | .triangle, .sine, e => exact absurd e.symm hst
    | .sine, .square, e => exact absurd e hsq
    | .square, .sine, e => exact absurd e.symm hsq
    | .triangle, .square, e => exact absurd e htq
    | .square, .triangle, e => exact absurd e.symm htq

/-- 00_scope.md R6, items 1 to 3, shape by shape. -/
theorem OpenParams.legal_iff (p : OpenParams) :
    p.legal = true ↔
      (∀ shape, p.waveCode shape &&& ~~~p.waveClearMask = 0#8) ∧
      (p.waveClearMask.getLsbD p.disableBit.val = false ∧
        ∀ shape, (p.waveCode shape).getLsbD p.disableBit.val = false) ∧
      ∀ shape shape', p.waveCode shape = p.waveCode shape' → shape = shape' := by
  rw [waveCode_injective_iff]
  simp only [Shape.forall_iff, waveCode, legal, codeInMask, sparesDisableBit_iff, Bool.and_eq_true, beq_iff_eq,
    bne_iff_ne, and_assoc]

/-- The parameters of this machine meet R6, by their type. -/
theorem Config.machine_legal : Config.machine.legal = true := Config.openParams.isLegal

end Sys2Proof

namespace Sys2Proof.Machine

/-- For parameters that meet R6, SET_WAVE keeps a set disable bit, and sets it where the code has that bit
(41_commands.md R125). -/
theorem setWaveform_disableBit {cfg : Config} (h : cfg.legal = true) (code : Byte) (c : ControlWord) :
    (setWaveform cfg code c).getLsbD cfg.disableBit.val =
      (c.getLsbD cfg.disableBit.val || code.getLsbD cfg.disableBit.val) := by
  obtain ⟨-, ⟨hmask, -⟩, -⟩ := cfg.legal_iff.mp h
  by_cases hk : cfg.disableBit.val < 8
  · rw [setWaveform_getLsbD_low _ _ _ _ hk, hmask, Bool.not_false, Bool.and_true]
  · have hcode : code.getLsbD cfg.disableBit.val = false := BitVec.getLsbD_of_ge _ _ (by omega)
    rw [setWaveform_getLsbD_high _ _ _ _ (not_lt.mp hk), hcode, Bool.or_false]

/-- SET_WAVE works bit by bit: a bit of the new control word comes from that bit of the old one. -/
theorem setWaveform_getLsbD_congr (cfg : Config) (code : Byte) {c c' : ControlWord} {k : Nat}
    (h : c.getLsbD k = c'.getLsbD k) : (setWaveform cfg code c).getLsbD k = (setWaveform cfg code c').getLsbD k := by
  by_cases hk : k < 8
  · simp only [setWaveform_getLsbD_low _ _ _ _ hk, h]
  · simp only [setWaveform_getLsbD_high _ _ _ _ (not_lt.mp hk), h]

/-- Blocks with the same parameters and the same disable bit have the same output state (10_state.md R27). -/
theorem outputState_congr {s t : State} (hcfg : t.cfg = s.cfg)
    (hbit : t.ctrl.getLsbD s.cfg.disableBit.val = s.ctrl.getLsbD s.cfg.disableBit.val) :
    t.outputState = s.outputState := by
  simp only [State.outputState, outputStateOf, hcfg, hbit]

end Sys2Proof.Machine
end

section
/-! What a command and a step end with, in the form the statements on the scope of the block read it. -/

namespace Sys2Proof.Machine

/-- INIT is the one command that does not transmit (41_commands.md R120). -/
theorem transmits_eq_false {i : Instr} (h : transmits i = false) : ∃ arg, i = .init arg := by
  cases i with
  | init arg => exact ⟨arg, rfl⟩
  | _ => simp [transmits] at h

/-- A transmitting command that completes ends after its update and TRANSMIT. -/
theorem eq_transmit_of_exec_next {i : Instr} {s t : State} (hi : transmits i = true) (h : exec i s = .next t) :
    t = transmit (updateOf i s) := by
  rw [exec_of_transmits hi] at h
  obtain ⟨-, -, rfl⟩ := whenLinkReady_next h
  rfl

/-- The update of a transmitting command leaves LINK_READY alone. -/
theorem updateOf_linkReady {i : Instr} (hi : transmits i = true) (s : State) :
    (updateOf i s).linkReady = s.linkReady := by
  cases i with
  | init arg => simp [transmits] at hi
  | setFreq f =>
    obtain ⟨-, -, hlinkReady, -⟩ := loadFrequency_frame f s
    exact hlinkReady
  | _ => rfl

/-- SET_FREQ that completes keeps CTRL and the parameters, and its PAYLOAD is that of the operand and the next draw. -/
theorem exec_setFreq_next {f : FreqOperand} {s t : State} (h : exec (.setFreq f) s = .next t) :
    t.cfg = s.cfg ∧ t.ctrl = s.ctrl ∧
      t.payload = payloadOf s.cfg.markerMode (tuningWord f (Config.freeTuningWord s.draws)) := by
  obtain rfl := eq_transmit_of_exec_next rfl h
  obtain ⟨-, -, hcfg, -, -⟩ := updateOf_frame (.setFreq f) s
  obtain ⟨hctrl, -, -, hpayload⟩ := loadFrequency_frame f s
  exact ⟨by simpa using hcfg, by simpa [updateOf] using hctrl, by simpa [updateOf] using hpayload⟩

/-- SET_WAVE that completes keeps the parameters and writes the code into CTRL's waveform field. -/
theorem exec_setWave_next {unused : BitVec 24} {code : Byte} {s t : State}
    (h : exec (.setWave unused code) s = .next t) :
    t.cfg = s.cfg ∧ t.ctrl = setWaveform s.cfg code s.ctrl := by
  obtain rfl := eq_transmit_of_exec_next rfl h
  simp [updateOf]

/-- OUTPUT_ON that completes keeps PAYLOAD and clears the disable bit. -/
theorem exec_outputOn_next {arg : BitVec 32} {s t : State} (h : exec (.outputOn arg) s = .next t) :
    t.payload = s.payload ∧ t.ctrl = clearDisable s.cfg s.ctrl := by
  obtain rfl := eq_transmit_of_exec_next rfl h
  simp [updateOf]

/-- OUTPUT_OFF that completes keeps PAYLOAD and sets the disable bit. -/
theorem exec_outputOff_next {arg : BitVec 32} {s t : State} (h : exec (.outputOff arg) s = .next t) :
    t.payload = s.payload ∧ t.ctrl = setDisable s.cfg s.ctrl := by
  obtain rfl := eq_transmit_of_exec_next rfl h
  simp [updateOf]

theorem runCommand_of_decode {cmd : Command} {i : Instr} (h : decode cmd = .command i)
    (run : Instr → State → Result) (s : State) : runCommand run cmd s = run i s := by
  simp only [runCommand, h]

/-- TRANSMIT keeps the invariant of a block whose link is ready, whatever the level of `cs_n` before it. -/
theorem inv_transmit {s : State} (hlegal : s.cfg.legal = true) (hframed : wholeTransactions s.link = true)
    (hready : s.linkReady = true) : Inv (transmit s) where
  legal := by simpa using hlegal
  selectHigh := transmit_csN s
  framed := by
    rw [transmit_link]
    exact wholeTransactions_append _ _ hframed (wholeTransactions_transaction _ _)
  silentBeforeInit h := by simp [hready] at h

/-- INIT's update keeps the invariant: it emits nothing and raises `cs_n` (41_commands.md R121). -/
theorem inv_updateOf_init {s : State} (hs : Inv s) (arg : BitVec 32) : Inv (updateOf (.init arg) s) where
  legal := hs.legal
  selectHigh := rfl
  framed := hs.framed
  silentBeforeInit h := by simp [updateOf] at h

/-- The invariant does not speak of the host's queue. -/
theorem inv_withPending {s : State} (hs : Inv s) (q : List Command) : Inv (s.withPending q) :=
  ⟨hs.legal, hs.selectHigh, hs.framed, hs.silentBeforeInit⟩

/-- Every command that completes keeps the invariant. -/
theorem exec_keeps_inv {i : Instr} {s t : State} (hs : Inv s) (h : exec i s = .next t) : Inv t := by
  obtain ⟨-, ⟨hi, rfl⟩ | ⟨hi, hready, rfl⟩⟩ := exec_next_cases h
  · obtain ⟨arg, rfl⟩ := transmits_eq_false hi
    exact inv_updateOf_init hs arg
  · obtain ⟨hlink, -, hcfg, -, -⟩ := updateOf_frame i s
    exact inv_transmit (hcfg ▸ hs.legal) (hlink ▸ hs.framed) ((updateOf_linkReady hi s).trans hready)

end Sys2Proof.Machine
end

section
/-! The statements of 00_scope.md. -/

namespace Sys2Proof.Machine

/-- Settles O41: a step waits or runs one command, and each of the two keeps the invariant. -/
theorem stepKeepsInvariant : Obligations.StepKeepsInvariant := by
  intro s t hs h
  obtain ⟨-, ⟨-, rfl⟩ | ⟨cmd, rest, i, -, -, hexec⟩⟩ := step_next_cases h
  · exact hs
  · exact exec_keeps_inv (inv_withPending hs rest) hexec

/-- Settles O24, command by command; R6 is what keeps a shape's code from the disable bit. -/
theorem outputStateIsIndependent : Obligations.OutputStateIsIndependent := by
  intro s t hlegal
  refine ⟨fun f h => ?setFreq, fun unused shape h => ?shape, fun unused code c u h hc hu k hk => ?setWave,
    fun arg h => ?output⟩
  case setFreq =>
    obtain ⟨hcfg, hctrl, hpayload⟩ := exec_setFreq_next h
    refine ⟨outputState_congr hcfg (by rw [hctrl]), fun c u hu => ?_⟩
    obtain ⟨-, -, hpayload'⟩ := exec_setFreq_next hu
    rw [hpayload', hpayload]
  case shape =>
    obtain ⟨hcfg, hctrl⟩ := exec_setWave_next h
    obtain ⟨-, ⟨-, hcodes⟩, -⟩ := s.cfg.legal_iff.mp hlegal
    refine outputState_congr hcfg ?_
    rw [hctrl, setWaveform_disableBit hlegal, hcodes, Bool.or_false]
  case setWave =>
    obtain ⟨-, hctrl⟩ := exec_setWave_next h
    obtain ⟨-, hctrl'⟩ := exec_setWave_next hu
    rw [hctrl, hctrl']
    exact setWaveform_getLsbD_congr _ _ (hc k hk)
  case output =>
    rcases h with h | h
    · obtain ⟨hpayload, hctrl⟩ := exec_outputOn_next h
      exact ⟨hpayload, fun k hk => by rw [hctrl, clearDisable_getLsbD, if_neg hk]⟩
    · obtain ⟨hpayload, hctrl⟩ := exec_outputOff_next h
      exact ⟨hpayload, fun k hk => by rw [hctrl, setDisable_getLsbD, if_neg hk]⟩

/-- Settles O25: the new disable bit is the old one or the code's. -/
theorem waveCodeOnlyEverDisables : Obligations.WaveCodeOnlyEverDisables := by
  intro s t unused code hlegal h
  obtain ⟨hcfg, hctrl⟩ := exec_setWave_next h
  have hbit := setWaveform_disableBit hlegal code s.ctrl
  simp only [outputState_eq_disabled, hcfg, hctrl, hbit, Bool.or_eq_true]
  exact ⟨.inl, fun _ => .inr⟩

/-- Settles O2: the opaque parameters carry the proof that they meet R6; the others are written out in
`Config.machine`. -/
theorem machineParametersMeetConstraints : Obligations.MachineParametersMeetConstraints := by
  obtain ⟨hinMask, hspare, hdistinct⟩ := (OpenParams.legal_iff _).mp Config.machine_legal
  exact ⟨hinMask, fun _ => hspare, hdistinct, rfl, rfl, rfl⟩

/-- Settles O7: of a running block the step is the command; of an ended run both are the stuck state. -/
theorem stepRunsDecodedCommand : Obligations.StepRunsDecodedCommand := by
  intro s cmd rest i hpending hdecode
  change step s = exec i (s.withPending rest)
  cases hended : s.ended with
  | false => rw [step_of_cons_running hended hpending, runCommand_of_decode hdecode]
  | true => rw [step_of_ended hended, exec_of_ended (by simpa using hended)]

end Sys2Proof.Machine
end

section
/-! What a command leaves unchanged, and everything CTRL can be after a command and a step (10_state.md R22, R24,
R26). -/

namespace Sys2Proof.Machine

/-- Every command that completes keeps the parameters, the queue and the marks, and leaves `cs_n` at 1 (R147). -/
theorem exec_frame {i : Instr} {s t : State} (h : exec i s = .next t) :
    t.cfg = s.cfg ∧ t.pending = s.pending ∧ t.faulted = s.faulted ∧ t.refused = s.refused ∧ t.csN = true := by
  obtain ⟨-, hpending, hcfg, hfaulted, hrefused⟩ := updateOf_frame i s
  obtain ⟨-, ⟨hi, rfl⟩ | ⟨-, -, rfl⟩⟩ := exec_next_cases h
  · obtain ⟨arg, rfl⟩ := transmits_eq_false hi
    exact ⟨hcfg, hpending, hfaulted, hrefused, rfl⟩
  · simp only [transmit_cfg, transmit_pending, transmit_faulted, transmit_refused]
    exact ⟨hcfg, hpending, hfaulted, hrefused, transmit_csN _⟩

/-- INIT that completes writes LINK_READY and `cs_n`, nothing else (41_commands.md R121). -/
theorem exec_init_next {arg : BitVec 32} {s t : State} (h : exec (.init arg) s = .next t) :
    t = { s with linkReady := true, csN := true } := by
  obtain ⟨-, ⟨-, rfl⟩ | ⟨⟨⟩, -⟩⟩ := exec_next_cases h
  rfl

/-- A transmitting command that completes sends one transaction of the registers as it leaves them, and LINK_READY
stays. -/
theorem exec_transmits_next {i : Instr} {s t : State} (hi : transmits i = true) (h : exec i s = .next t) :
    t.linkReady = s.linkReady ∧ t.link = s.link ++ transaction t.ctrl t.payload := by
  obtain rfl := eq_transmit_of_exec_next hi h
  obtain ⟨hlink, -⟩ := updateOf_frame i s
  rw [transmit_linkReady, transmit_link, transmit_ctrl, transmit_payload, hlink]
  exact ⟨updateOf_linkReady hi s, rfl⟩

/-- A command that completes and is no SET_FREQ takes no draw, and keeps PAYLOAD (10_state.md R26). -/
theorem exec_payload_draws {i : Instr} {s t : State} (hi : ∀ f, i ≠ .setFreq f) (h : exec i s = .next t) :
    t.payload = s.payload ∧ t.draws = s.draws := by
  have hupdate : (updateOf i s).payload = s.payload ∧ (updateOf i s).draws = s.draws := by
    cases i with
    | setFreq f => exact absurd rfl (hi f)
    | _ => exact ⟨rfl, rfl⟩
  obtain ⟨-, ⟨-, rfl⟩ | ⟨-, -, rfl⟩⟩ := exec_next_cases h
  · exact hupdate
  · simpa using hupdate

/-- A transmitting command that completes has sent something. -/
theorem exec_transmits_sends {i : Instr} {s t : State} (hi : transmits i = true) (h : exec i s = .next t) :
    t.link ≠ s.link := by
  obtain ⟨-, hlink⟩ := exec_transmits_next hi h
  rw [hlink, Ne, List.append_right_eq_self]
  exact List.cons_ne_nil _ _

/-- An idle block takes an offered command that completes. -/
theorem takeOffered_of_exec_next {cmd : Command} {i : Instr} {s t : State} (hdecode : decode cmd = .command i)
    (h : exec i s = .next t) : takeOffered exec (some cmd) s = .next t := by
  obtain ⟨hrun, -⟩ := exec_next_cases h
  calc takeOffered exec (some cmd) s
      = runCommand exec cmd s := unlessEnded_of_running hrun _
    _ = exec i s := runCommand_of_decode hdecode exec s
    _ = .next t := h

/-- SET_WAVE keeps every bit of CTRL_HI, and every bit that neither the mask nor the code has (41_commands.md R125). -/
theorem setWaveform_getLsbD_outside {cfg : Config} {code : Byte} {k : Nat}
    (hk : 8 ≤ k ∨ (cfg.waveClearMask.getLsbD k = false ∧ code.getLsbD k = false)) (c : ControlWord) :
    (setWaveform cfg code c).getLsbD k = c.getLsbD k := by
  by_cases h8 : k < 8
  · obtain ⟨hmask, hcode⟩ := hk.resolve_left (not_le.mpr h8)
    rw [setWaveform_getLsbD_low _ _ _ _ h8, hmask, hcode, Bool.not_false, Bool.and_true, Bool.or_false]
  · exact setWaveform_getLsbD_high _ _ _ _ (not_lt.mp h8)

/-- Everything CTRL can be after a command that completes. -/
theorem exec_ctrl_cases {i : Instr} {s t : State} (h : exec i s = .next t) :
    t.ctrl = s.ctrl ∨ t.ctrl = clearDisable s.cfg s.ctrl ∨ t.ctrl = setDisable s.cfg s.ctrl ∨
      ∃ code, t.ctrl = setWaveform s.cfg code s.ctrl := by
  cases i with
  | init arg =>
    obtain rfl := exec_init_next h
    exact .inl rfl
  | outputOn arg =>
    obtain ⟨-, hctrl⟩ := exec_outputOn_next h
    exact .inr (.inl hctrl)
  | outputOff arg =>
    obtain ⟨-, hctrl⟩ := exec_outputOff_next h
    exact .inr (.inr (.inl hctrl))
  | setFreq f =>
    obtain ⟨-, hctrl, -⟩ := exec_setFreq_next h
    exact .inl hctrl
  | setWave unused code =>
    obtain ⟨-, hctrl⟩ := exec_setWave_next h
    exact .inr (.inr (.inr ⟨code, hctrl⟩))

/-- Everything CTRL can be after a step, which keeps the parameters. -/
theorem step_ctrl_cases {s t : State} (h : step s = .next t) :
    t.cfg = s.cfg ∧
      (t.ctrl = s.ctrl ∨ t.ctrl = clearDisable s.cfg s.ctrl ∨ t.ctrl = setDisable s.cfg s.ctrl ∨
        ∃ code, t.ctrl = setWaveform s.cfg code s.ctrl) := by
  obtain ⟨-, ⟨-, rfl⟩ | ⟨cmd, rest, i, -, -, hexec⟩⟩ := step_next_cases h
  · exact ⟨rfl, .inl rfl⟩
  · obtain ⟨hcfg, -⟩ := exec_frame hexec
    exact ⟨hcfg, by simpa using exec_ctrl_cases hexec⟩

/-- No step writes a bit of CTRL_HI other than DISABLE (10_state.md R22). -/
theorem step_keeps_ctrlHi_bit {s t : State} (h : step s = .next t) {k : Nat} (hk : 8 ≤ k)
    (hdisable : k ≠ s.cfg.disableBit.val) : t.ctrl.getLsbD k = s.ctrl.getLsbD k := by
  obtain ⟨-, hctrl | hctrl | hctrl | ⟨code, hctrl⟩⟩ := step_ctrl_cases h
  · rw [hctrl]
  · rw [hctrl, clearDisable_getLsbD, if_neg hdisable]
  · rw [hctrl, setDisable_getLsbD, if_neg hdisable]
  · rw [hctrl, setWaveform_getLsbD_high _ _ _ _ hk]

end Sys2Proof.Machine
end

section
/-! The events of whole transactions: the level of the select line (42_transmitter.md R141, R142) and the bits on `sdata`
(R143). -/

namespace Sys2Proof.Machine

/-- Replayed from `level`, the select line is low at every `Byte` event of the list (42_transmitter.md R141). -/
def lowAtBytes : Bool → List LinkEvent → Prop
  | _, [] => True
  | level, e :: l => (∀ b, e = .byte b → level = false) ∧ lowAtBytes (selectLevel level e) l

/-- `lowAtBytes` in the form of a list cut at a `Byte` event. -/
theorem lowAtBytes_iff {level : Bool} {l : List LinkEvent} :
    lowAtBytes level l ↔
      ∀ before after b, l = before ++ .byte b :: after → before.foldl selectLevel level = false := by
  induction l generalizing level with
  | nil => simp [lowAtBytes]
  | cons e l ih =>
    rw [lowAtBytes, ih]
    constructor
    · rintro ⟨hfirst, hrest⟩ (_ | ⟨e', before⟩) after b h
      · obtain ⟨he, -⟩ := List.cons.inj h
        exact hfirst b he
      · obtain ⟨rfl, htail⟩ := List.cons.inj h
        exact hrest before after b htail
    · intro h
      refine ⟨fun b he => h [] l b (by rw [he, List.nil_append]), fun before after b htail => ?_⟩
      exact h (e :: before) after b (by rw [htail, List.cons_append])

/-- Whole transactions, replayed from the idle level: low at every byte, and idle again after the last event. -/
theorem wholeTransactions_select {l : List LinkEvent} (h : wholeTransactions l = true) :
    selectLevelAfter l = true ∧ lowAtBytes true l := by
  induction l using wholeTransactions.induct with
  | case1 => exact ⟨rfl, trivial⟩
  | case2 b₀ b₁ b₂ b₃ b₄ b₅ rest ih =>
    obtain ⟨hidle, hlow⟩ := ih (by simpa [wholeTransactions] using h)
    exact ⟨hidle, by simpa [lowAtBytes, selectLevel] using hlow⟩
  | case3 l hnil hcons => simp [wholeTransactions] at h

/-- Byte `j` of a frame, the first byte sent being byte 0 (30_encoding.md R69). -/
def frameByte (frame : Frame) (j : Nat) : Byte := frame.extractLsb' (40 - 8 * j) 8

/-- The six bytes of a transaction are those of its frame. -/
theorem frameBytes_eq_map_frameByte (c : ControlWord) (p : Payload) :
    frameBytes c p = (List.range 6).map (frameByte (frameOf c p)) := by
  have hhigh : ∀ start, (frameOf c p).extractLsb' (32 + start) 8 = c.extractLsb' start 8 := fun start => by
    rw [frameOf, BitVec.extractLsb'_append_eq_of_le (Nat.le_add_right _ _), Nat.add_sub_cancel_left]
  have hlow : ∀ start, start + 8 ≤ 32 → (frameOf c p).extractLsb' start 8 = p.extractLsb' start 8 :=
    fun start h => BitVec.extractLsb'_append_eq_of_add_le h
  simp only [frameBytes, ctrlHi, ctrlLo, payloadP0, payloadP1, payloadP2, payloadP3, ← hhigh]
  rw [← hlow 24 (by decide), ← hlow 16 (by decide), ← hlow 8 (by decide), ← hlow 0 (by decide)]
  rfl

/-- Bit-times `8 * j` to `8 * j + 7` carry byte `j` of the frame, in either bit order (42_transmitter.md R143). -/
theorem byteBits_frameByte (order : BitOrder) (frame : Frame) {j : Nat} (hj : j < 6) :
    byteBits order (frameByte frame j) = (List.range 8).map fun r => frameBit order frame (8 * j + r) := by
  cases order with
  | msbFirst =>
    refine List.map_congr_left fun r hr => ?_
    have hr8 : r < 8 := List.mem_range.mp hr
    have hbit : 40 - 8 * j + (7 - r) = 47 - (8 * j + r) := by omega
    have hr7 : 7 - r < 8 := by omega
    simp [frameByte, frameBit, hbit, hr7]
  | lsbFirst =>
    refine List.map_congr_left fun r hr => ?_
    have hr8 : r < 8 := List.mem_range.mp hr
    have hdiv : (8 * j + r) / 8 = j := by omega
    have hmod : (8 * j + r) % 8 = r := by omega
    simp [frameByte, frameBit, hr8, hdiv, hmod]

/-- A transaction puts the bits of its frame on `sdata`, one in each of 48 bit-times (42_transmitter.md R143). -/
theorem serialBits_transaction (order : BitOrder) (c : ControlWord) (p : Payload) :
    serialBits order (transaction c p) = (List.range 48).map (frameBit order (frameOf c p)) := by
  calc serialBits order (transaction c p)
      = (frameBytes c p).flatMap (byteBits order) := by
        simp [serialBits, transaction, eventBits, List.flatMap_append, List.flatMap_map]
    _ = (List.range 6).flatMap fun j => (List.range 8).map fun r => frameBit order (frameOf c p) (8 * j + r) := by
        rw [frameBytes_eq_map_frameByte, List.flatMap_map]
        exact List.flatMap_congr fun j hj => byteBits_frameByte order _ (List.mem_range.mp hj)
    _ = (List.range 48).map (frameBit order (frameOf c p)) := rfl

end Sys2Proof.Machine
end

section
/-! What reset, a bit-time and the step of an idle block do to the bit-time view's invariant (10_state.md R33). -/

namespace Sys2Proof.Machine

/-- Reset meets the invariant, for parameters that meet R6. -/
theorem inv_resetUnder {cfg : Config} (hlegal : cfg.legal = true) (n : Nat) : Inv (State.resetUnder cfg n) where
  legal := hlegal
  selectHigh := rfl
  framed := rfl
  silentBeforeInit _ := rfl

/-- What an idle block does with an offered command, if there is one, keeps the invariant. -/
theorem takeOffered_keeps_inv {offered : Option Command} {s t : State} (hs : Inv s)
    (h : takeOffered exec offered s = .next t) : Inv t := by
  obtain ⟨-, ⟨-, rfl⟩ | ⟨cmd, i, -, -, hexec⟩⟩ := takeOffered_next_cases h
  · exact hs
  · exact exec_keeps_inv hs hexec

/-- With no transaction in progress the bit-time view's invariant is that of the registers. -/
theorem serialInv_of_idle {b : SerialBlock} (hregs : Inv b.regs) (hidle : b.shifter.busy = false) : SerialInv b where
  regs := hregs
  position hbusy := by simp [hidle] at hbusy
  snapshot hbusy := by simp [hidle] at hbusy

/-- One bit-time keeps the bit-time view's invariant: the snapshot stays, and the position stays below 48. -/
theorem serialInv_tick {b : SerialBlock} (hb : SerialInv b) : SerialInv b.tick := by
  cases hbusy : b.shifter.busy with
  | false => exact serialInv_of_idle hb.regs (by simp [Shifter.tick, hbusy])
  | true =>
    by_cases hlast : b.shifter.position + 1 < 48
    · have htick : b.tick.shifter = { b.shifter with position := b.shifter.position + 1 } := by
        simp [Shifter.tick, hbusy, hlast]
      exact ⟨hb.regs, fun _ => by rw [htick]; exact hlast, fun _ => by rw [htick]; exact hb.snapshot hbusy⟩
    · exact serialInv_of_idle hb.regs (by simp [Shifter.tick, hbusy, hlast, Shifter.idle])

/-- A step of an idle block that ends with the registers' invariant leaves the bit-time view's: a transaction it starts is
at bit 0 of the new CTRL and PAYLOAD. -/
theorem serialInv_settle {b b' : SerialBlock} {r : Result} (hidle : b.shifter.busy = false)
    (hr : ∀ t, r = .next t → Inv t) (h : b.settle r = .next b') : SerialInv b' := by
  obtain ⟨t, hnext, rfl, ⟨-, hshifter⟩ | ⟨-, hshifter⟩⟩ := SerialBlock.settle_next_cases h
  · exact serialInv_of_idle (hr _ hnext) (by rw [hshifter, hidle])
  · exact ⟨hr _ hnext, fun _ => by rw [hshifter]; exact Nat.zero_lt_succ 47, fun _ => by rw [hshifter]; rfl⟩

end Sys2Proof.Machine
end

section
/-! The bit-time view in the 48 bit-times of a transaction (10_state.md R33, 70_reset_and_hazards.md R184). -/

namespace Sys2Proof.Machine

/-- The shifter in bit-time `k` of a transaction of CTRL `c` and PAYLOAD `p`, and idle once all 48 are over. -/
def Shifter.sending (c : ControlWord) (p : Payload) (k : Nat) : Shifter :=
  if k < 48 then { Shifter.start c p with position := k } else Shifter.idle

theorem Shifter.sending_zero (c : ControlWord) (p : Payload) : Shifter.sending c p 0 = Shifter.start c p := rfl

theorem Shifter.sending_last (c : ControlWord) (p : Payload) : Shifter.sending c p 48 = Shifter.idle := rfl

theorem Shifter.sending_busy {k : Nat} (hk : k < 48) (c : ControlWord) (p : Payload) :
    (Shifter.sending c p k).busy = true := by
  simp [Shifter.sending, hk, Shifter.start]

theorem Shifter.sending_tick {k : Nat} (hk : k < 48) (c : ControlWord) (p : Payload) :
    (Shifter.sending c p k).tick = Shifter.sending c p (k + 1) := by
  simp [Shifter.sending, Shifter.start, Shifter.tick, hk]

theorem Shifter.sending_cmdReady {k : Nat} (hk : k < 48) (c : ControlWord) (p : Payload) :
    (Shifter.sending c p k).cmdReady = false := by
  rw [Shifter.cmdReady, Shifter.sending_busy hk, Bool.not_true]

theorem Shifter.sending_csN {k : Nat} (hk : k < 48) (c : ControlWord) (p : Payload) :
    (Shifter.sending c p k).csN = false := by
  rw [Shifter.csN, Shifter.sending_busy hk, Bool.not_true]

/-- In bit-time `k` port `sdata` carries bit `k` of the transaction. -/
theorem Shifter.sending_sdata {k : Nat} (hk : k < 48) (order : BitOrder) (c : ControlWord) (p : Payload) :
    (Shifter.sending c p k).sdata order = (serialBits order (transaction c p))[k]? := by
  rw [serialBits_transaction, List.getElem?_map, List.getElem?_range hk, Option.map_some]
  simp [Shifter.sending, Shifter.sdata, Shifter.start, hk]

theorem SerialBlock.cycle_of_busy {b : SerialBlock} (hb : b.shifter.busy = true) : b.cycle = .next b.tick := by
  simp [SerialBlock.cycle, Shifter.cmdReady, hb]

theorem SerialBlock.cycle_of_ready {b : SerialBlock} (hb : b.shifter.busy = false) :
    b.cycle = b.settle (step b.regs) := by
  simp [SerialBlock.cycle, Shifter.cmdReady, hb]

/-- Everything a next block can be after a cycle with the queue: a bit-time, or the step of an idle block. -/
theorem SerialBlock.cycle_next_cases {b b' : SerialBlock} (h : b.cycle = .next b') :
    (b.shifter.busy = true ∧ b' = b.tick) ∨ (b.shifter.busy = false ∧ b.settle (step b.regs) = .next b') := by
  cases hb : b.shifter.busy with
  | true => rw [cycle_of_busy hb] at h; cases h; exact .inl ⟨rfl, rfl⟩
  | false => rw [cycle_of_ready hb] at h; exact .inr ⟨rfl, h⟩

theorem SerialBlock.cycles_succ {b b' : SerialBlock} (h : b.cycle = .next b') (n : Nat) :
    b.cycles (n + 1) = b'.cycles n := by
  simp only [SerialBlock.cycles, h]

theorem SerialBlock.clocks_cons {p : PortInputs} {b b' : SerialBlock} (h : b.clock p = .next b')
    (ps : List PortInputs) : b.clocks (p :: ps) = b'.clocks ps := by
  simp only [SerialBlock.clocks, h]

/-- The block with registers `t` in bit-time `k` of the transaction of their CTRL and PAYLOAD. -/
def SerialBlock.sending (t : State) (k : Nat) : SerialBlock :=
  { regs := t, shifter := .sending t.ctrl t.payload k }

@[simp] theorem SerialBlock.sending_regs (t : State) (k : Nat) : (SerialBlock.sending t k).regs = t := rfl
@[simp] theorem SerialBlock.sending_shifter (t : State) (k : Nat) :
    (SerialBlock.sending t k).shifter = .sending t.ctrl t.payload k := rfl

theorem SerialBlock.sending_tick (t : State) {k : Nat} (hk : k < 48) :
    (SerialBlock.sending t k).tick = SerialBlock.sending t (k + 1) := by
  rw [SerialBlock.tick, sending_shifter, Shifter.sending_tick hk, sending, sending]

/-- `n` bit-times of a transaction, its host driving the ports from the queue. -/
theorem SerialBlock.cycles_sending (t : State) {n k : Nat} (hn : k + n ≤ 48) :
    (SerialBlock.sending t k).cycles n = .next (SerialBlock.sending t (k + n)) := by
  induction n generalizing k with
  | zero => rfl
  | succ n ih =>
    have hk : k < 48 := by omega
    have hcycle := SerialBlock.cycle_of_busy (b := sending t k) (Shifter.sending_busy hk _ _)
    rw [SerialBlock.cycles_succ hcycle, sending_tick t hk, ih (by omega), Nat.add_right_comm, Nat.add_assoc]

/-- A bit-time of a transaction for each of the inputs, whatever they offer. -/
theorem SerialBlock.clocks_sending (t : State) {ps : List PortInputs} {k : Nat}
    (hrst : ∀ q ∈ ps, q.rstN = true) (hps : k + ps.length ≤ 48) :
    (SerialBlock.sending t k).clocks ps = .next (SerialBlock.sending t (k + ps.length)) := by
  induction ps generalizing k with
  | nil => rfl
  | cons q ps ih =>
    obtain ⟨hq, hrest⟩ := List.forall_mem_cons.mp hrst
    rw [List.length_cons] at hps ⊢
    have hk : k < 48 := by omega
    have hclock := SerialBlock.clock_of_busy (b := sending t k) hq (Shifter.sending_busy hk _ _)
    rw [SerialBlock.clocks_cons hclock, sending_tick t hk, ih hrest (by omega), Nat.add_right_comm, Nat.add_assoc]

/-- A step that sent something starts the transaction of its CTRL and PAYLOAD. -/
theorem SerialBlock.settle_of_sent {b : SerialBlock} {t : State} (h : t.link ≠ b.regs.link) :
    b.settle (.next t) = .next (SerialBlock.sending t 0) := by
  rw [SerialBlock.settle, if_neg h, ← Shifter.sending_zero, SerialBlock.sending]

end Sys2Proof.Machine
end

section
/-! The statements of 10_state.md. -/

namespace Sys2Proof.Machine

/-- Settles O26: OUTPUT_ON clears the disable bit alone, and SET_WAVE clears none outside the mask. -/
theorem strayWaveBitsStay : Obligations.StrayWaveBitsStay := by
  intro s t k h hk hmask hdisable hset
  obtain ⟨-, hctrl | hctrl | hctrl | ⟨code, hctrl⟩⟩ := step_ctrl_cases h
  · rw [hctrl, hset]
  · rw [hctrl, clearDisable_getLsbD, if_neg hdisable, hset]
  · rw [hctrl, setDisable_getLsbD, if_neg hdisable, hset]
  · rw [hctrl, setWaveform_getLsbD_low _ _ _ _ hk, hset, hmask, Bool.not_false, Bool.and_true, Bool.true_or]

/-- Settles O43: no step writes the bits of CTRL_HI but DISABLE, and the stray bits of CTRL_LO stay (O26). -/
theorem stepKeepsFixedFlags : Obligations.StepKeepsFixedFlags := by
  intro s t hs h
  obtain ⟨hcfg, -⟩ := step_ctrl_cases h
  constructor <;> rw [hcfg]
  case high =>
    intro k hk hk16 hdisable
    rw [step_keeps_ctrlHi_bit h hk hdisable, hs.high k hk hk16 hdisable]
  case low =>
    intro k hk hdisable hmask hinit
    exact strayWaveBitsStay s t k h hk hmask hdisable (hs.low k hk hdisable hmask hinit)

/-- Settles O42: reset loads CTRL_INIT (70_reset_and_hazards.md R180). -/
theorem fixedFlagsAtReset : Obligations.FixedFlagsAtReset where
  high _ _ _ _ := rfl
  low _ _ _ _ hinit := hinit

/-- Settles O19, command by command. -/
theorem commandsLeaveTheRestUnchanged : Obligations.CommandsLeaveTheRestUnchanged := by
  intro i s t h
  obtain ⟨hcfg, hpending, hfaulted, hrefused, hselect⟩ := exec_frame h
  refine ⟨hcfg, hpending, hfaulted, hrefused, hselect, ?_⟩
  cases i with
  | init arg =>
    obtain rfl := exec_init_next h
    exact ⟨rfl, rfl, rfl, rfl⟩
  | outputOn arg =>
    obtain ⟨hready, hlink⟩ := exec_transmits_next rfl h
    obtain ⟨hpayload, hdraws⟩ := exec_payload_draws (by simp) h
    obtain ⟨-, hctrl⟩ := exec_outputOn_next h
    exact ⟨fun k hk => by rw [hctrl, clearDisable_getLsbD, if_neg hk], hpayload, hready, hdraws, hlink⟩
  | outputOff arg =>
    obtain ⟨hready, hlink⟩ := exec_transmits_next rfl h
    obtain ⟨hpayload, hdraws⟩ := exec_payload_draws (by simp) h
    obtain ⟨-, hctrl⟩ := exec_outputOff_next h
    exact ⟨fun k hk => by rw [hctrl, setDisable_getLsbD, if_neg hk], hpayload, hready, hdraws, hlink⟩
  | setFreq f =>
    obtain ⟨hready, hlink⟩ := exec_transmits_next rfl h
    obtain ⟨-, hctrl, -⟩ := exec_setFreq_next h
    exact ⟨hctrl, hready, hlink⟩
  | setWave unused code =>
    obtain ⟨hready, hlink⟩ := exec_transmits_next rfl h
    obtain ⟨hpayload, hdraws⟩ := exec_payload_draws (by simp) h
    obtain ⟨-, hctrl⟩ := exec_setWave_next h
    exact ⟨fun k hk => by rw [hctrl, setWaveform_getLsbD_outside hk], hpayload, hready, hdraws, hlink⟩

/-- Settles O20, by the frame of the one command that the step ran. -/
theorem registersHaveOnlyTheirWriters : Obligations.RegistersHaveOnlyTheirWriters := by
  intro s t h
  obtain ⟨-, ⟨-, rfl⟩ | ⟨cmd, rest, i, hpending, hdecode, hexec⟩⟩ := step_next_cases h
  · exact ⟨absurd rfl, absurd rfl, absurd rfl⟩
  have hhead : s.pending.head? = some cmd := by rw [hpending, List.head?_cons]
  obtain ⟨-, -, -, -, -, hframe⟩ := commandsLeaveTheRestUnchanged i _ t hexec
  refine ⟨fun hctrl => ⟨cmd, i, hhead, hdecode, ?ctrl⟩, fun hpayload => ?payload, fun hready => ?linkReady⟩
  case ctrl =>
    cases i with
    | init arg =>
      obtain ⟨hsame, -⟩ := hframe
      exact absurd hsame hctrl
    | outputOn arg => exact .inl ⟨arg, rfl⟩
    | outputOff arg => exact .inr (.inl ⟨arg, rfl⟩)
    | setFreq f =>
      obtain ⟨hsame, -⟩ := hframe
      exact absurd hsame hctrl
    | setWave unused code => exact .inr (.inr ⟨unused, code, rfl⟩)
  case payload =>
    by_cases hi : ∃ f, i = .setFreq f
    · obtain ⟨f, rfl⟩ := hi
      exact ⟨cmd, f, hhead, hdecode⟩
    · obtain ⟨hsame, -⟩ := exec_payload_draws (not_exists.mp hi) hexec
      exact absurd hsame hpayload
  case linkReady =>
    cases hi : transmits i with
    | true =>
      obtain ⟨hsame, -⟩ := exec_transmits_next hi hexec
      exact absurd hsame hready
    | false =>
      obtain ⟨arg, rfl⟩ := transmits_eq_false hi
      obtain rfl := exec_init_next hexec
      exact ⟨rfl, cmd, arg, hhead, hdecode⟩

/-- Settles O21: the new PAYLOAD is that of the operand, the marker mode and the next draw. -/
theorem setFreqForgetsOldPayload : Obligations.SetFreqForgetsOldPayload := by
  intro f s p c l t u ht hu
  obtain ⟨-, -, hpayload⟩ := exec_setFreq_next ht
  obtain ⟨-, -, hpayload'⟩ := exec_setFreq_next hu
  rw [hpayload', hpayload]

/-- Settles O37, transaction by transaction. -/
theorem selectIsLowAtEveryByte : Obligations.SelectIsLowAtEveryByte := by
  intro l h
  obtain ⟨hidle, hlow⟩ := wholeTransactions_select h
  exact ⟨hidle, lowAtBytes_iff.mp hlow⟩

/-- Settles O54: reset starts no transaction, and this machine's parameters meet R6. -/
theorem serialInvariantAtReset : Obligations.SerialInvariantAtReset :=
  serialInv_of_idle (inv_resetUnder Config.machine_legal 0) rfl

/-- Settles O55: a cycle is a reset, a bit-time, or the step of an idle block, and each keeps the invariant. -/
theorem portCycleKeepsInvariant : Obligations.PortCycleKeepsInvariant := by
  rintro p b b' hb (hclock | hcycle)
  · obtain ⟨-, rfl⟩ | ⟨-, -, rfl⟩ | ⟨-, hidle, hsettle⟩ := SerialBlock.clock_next_cases hclock
    · exact serialInv_of_idle (inv_resetUnder hb.regs.legal _) rfl
    · exact serialInv_tick hb
    · exact serialInv_settle hidle (fun t => takeOffered_keeps_inv hb.regs) hsettle
  · obtain ⟨-, rfl⟩ | ⟨hidle, hsettle⟩ := SerialBlock.cycle_next_cases hcycle
    · exact serialInv_tick hb
    · exact serialInv_settle hidle (fun t => stepKeepsInvariant _ t hb.regs) hsettle

/-- Settles O39: the first cycle is the step, and each later one a bit-time. -/
theorem serialBlockRefinesStep : Obligations.SerialBlockRefinesStep := by
  intro b t hidle hstep hsent
  have hfirst : b.cycle = .next (SerialBlock.sending t 0) := by
    rw [SerialBlock.cycle_of_ready (by rw [hidle]; rfl), hstep, SerialBlock.settle_of_sent hsent]
  have hcycles : ∀ k ≤ 48, b.cycles (1 + k) = .next (SerialBlock.sending t k) := by
    intro k hk
    rw [Nat.add_comm, SerialBlock.cycles_succ hfirst, SerialBlock.cycles_sending t (by omega), Nat.zero_add]
  refine ⟨fun k hk => ?_, hcycles 48 le_rfl⟩
  exact ⟨_, hcycles k hk.le, Shifter.sending_cmdReady hk _ _, Shifter.sending_csN hk _ _,
    fun order => Shifter.sending_sdata hk order _ _⟩

/-- Settles O51: the first cycle is the command, and each later one a bit-time. -/
theorem acceptedCommandHoldsThePorts : Obligations.AcceptedCommandHoldsThePorts := by
  intro p b i t hidle hrst hvalid hdecode hi hexec
  refine ⟨by simp [SerialBlock.accepts, SerialBlock.outputs, hvalid, hrst, hidle], fun ps hps hlength => ?_⟩
  have hfirst : b.clock p = .next (SerialBlock.sending t 0) := by
    have hoffered : p.offered = some p.cmd := if_pos hvalid
    rw [SerialBlock.clock_of_ready hrst (by rw [hidle]; rfl), hoffered, takeOffered_of_exec_next hdecode hexec,
      SerialBlock.settle_of_sent (exec_transmits_sends hi hexec)]
  refine ⟨SerialBlock.sending t ps.length, ?_, rfl, fun hlt q hq => ?_, fun hlast => ?_⟩
  · rw [SerialBlock.clocks_cons hfirst, SerialBlock.clocks_sending t hps (by omega), Nat.zero_add]
  · have hready := Shifter.sending_cmdReady hlt t.ctrl t.payload
    have hselect := Shifter.sending_csN hlt t.ctrl t.payload
    have hdata := Shifter.sending_sdata hlt t.cfg.bitOrder t.ctrl t.payload
    simp [SerialBlock.accepts, SerialBlock.outputs, hq, hready, hselect, hdata]
  · rw [hlast, SerialBlock.sending_shifter, Shifter.sending_last]

end Sys2Proof.Machine
end

section
/-! The events of a step, and a queue of decodable commands run to its end (20_memory.md R48 to R50). -/

namespace Sys2Proof.Machine

/-- What a step appended to the event list is that step's events (log 9). -/
theorem stepEvents_of_link_eq_append {s t : State} {l : List LinkEvent} (h : t.link = s.link ++ l) :
    stepEvents s t = l := by
  rw [stepEvents, h, List.drop_left]

theorem transaction_length (c : ControlWord) (p : Payload) : (transaction c p).length = 8 := rfl

/-- Everything a step can append to the event list: the one transaction of its command, or nothing when it waited or
ran INIT (20_memory.md R49). -/
theorem step_link_cases {s t : State} (h : step s = .next t) :
    (t.link = s.link ++ transaction t.ctrl t.payload ∧
        ∃ cmd i, s.pending.head? = some cmd ∧ decode cmd = .command i ∧ transmits i = true) ∨
      (t.link = s.link ++ [] ∧
        (s.pending = [] ∨ ∃ cmd arg, s.pending.head? = some cmd ∧ decode cmd = .command (.init arg))) := by
  obtain ⟨-, ⟨hempty, rfl⟩ | ⟨cmd, rest, i, hpending, hdecode, hexec⟩⟩ := step_next_cases h
  · exact .inr ⟨(List.append_nil _).symm, .inl hempty⟩
  have hhead : s.pending.head? = some cmd := by rw [hpending, List.head?_cons]
  cases hi : transmits i with
  | true =>
    obtain ⟨-, hlink⟩ := exec_transmits_next hi hexec
    exact .inl ⟨hlink, cmd, i, hhead, hdecode, hi⟩
  | false =>
    obtain ⟨arg, rfl⟩ := transmits_eq_false hi
    obtain rfl := exec_init_next hexec
    exact .inr ⟨(List.append_nil _).symm, .inr ⟨cmd, arg, hhead, hdecode⟩⟩

/-- A command that completes leaves the run as it is, ended or not. -/
theorem exec_keeps_ended {i : Instr} {s t : State} (h : exec i s = .next t) : t.ended = s.ended := by
  obtain ⟨-, -, hfaulted, hrefused, -⟩ := exec_frame h
  rw [State.ended, State.ended, hfaulted, hrefused]

/-- Every command of a running block whose link is ready completes, keeps the link ready, and sends the 8 events of a
transaction if it transmits. -/
theorem exec_completes_of_ready {s : State} (hrun : s.ended = false) (hready : s.linkReady = true) (i : Instr) :
    ∃ t, exec i s = .next t ∧ t.linkReady = true ∧
      t.link.length = s.link.length + 8 * (transmits i).toNat := by
  cases hi : transmits i with
  | true =>
    have hexec := exec_of_ready hi hrun hready
    obtain ⟨hkept, hlink⟩ := exec_transmits_next hi hexec
    refine ⟨_, hexec, hkept.trans hready, ?_⟩
    rw [hlink, List.length_append, transaction_length, Bool.toNat_true]
  | false =>
    obtain ⟨arg, rfl⟩ := transmits_eq_false hi
    exact ⟨_, unlessEnded_of_running hrun _, rfl, rfl⟩

/-- One step of a running block whose link is ready takes the oldest offered command off the queue, if it decodes, and
completes it. -/
theorem step_completes_of_ready {s : State} {cmd : Command} {rest : List Command} {i : Instr}
    (hrun : s.ended = false) (hready : s.linkReady = true) (hpending : s.pending = cmd :: rest)
    (hdecode : decode cmd = .command i) :
    ∃ t, step s = .next t ∧ t.ended = false ∧ t.linkReady = true ∧ t.pending = rest ∧
      t.link.length = s.link.length + 8 * (transmits i).toNat := by
  have hrun' : (s.withPending rest).ended = false := by rw [State.ended_withPending, hrun]
  obtain ⟨t, hexec, hready', hlength⟩ := exec_completes_of_ready hrun' hready i
  obtain ⟨-, hrest, -⟩ := exec_frame hexec
  refine ⟨t, ?_, (exec_keeps_ended hexec).trans hrun', hready', hrest, hlength⟩
  rw [step_of_cons_running hrun hpending, runCommand_of_decode hdecode, hexec]

theorem runFor_succ {s t : State} (h : step s = .next t) (n : Nat) : runFor (n + 1) s = runFor n t := by
  simp only [runFor, h]

/-- A running block whose link is ready completes every queue of commands that decode, in one step each, with 8 events
for each that transmits; `p` says which do (20_memory.md R50). -/
theorem runFor_completes_queue {p : Command → Bool} (hp : ∀ cmd i, decode cmd = .command i → p cmd = transmits i)
    {q : List Command} {s : State} (hrun : s.ended = false) (hready : s.linkReady = true)
    (hpending : s.pending = q) (hdecode : ∀ cmd ∈ q, ∃ i, decode cmd = .command i) :
    ∃ t, runFor q.length s = .next t ∧ t.pending = [] ∧ t.linkReady = true ∧
      t.link.length = s.link.length + 8 * q.countP p := by
  induction q generalizing s with
  | nil => exact ⟨s, rfl, hpending, hready, rfl⟩
  | cons cmd rest ih =>
    obtain ⟨⟨i, hi⟩, hrest⟩ := List.forall_mem_cons.mp hdecode
    obtain ⟨u, hstep, hrunU, hreadyU, hpendingU, hlengthU⟩ := step_completes_of_ready hrun hready hpending hi
    obtain ⟨t, hrunFor, hempty, hreadyT, hlengthT⟩ := ih hrunU hreadyU hpendingU hrest
    have hcount : (cmd :: rest).countP p = (transmits i).toNat + rest.countP p := by
      rw [List.countP_cons, hp cmd i hi, Nat.add_comm, Bool.toNat, Bool.cond_eq_ite]
    refine ⟨t, by rw [List.length_cons, runFor_succ hstep, hrunFor], hempty, hreadyT, ?_⟩
    rw [hlengthT, hlengthU, hcount, Nat.mul_add, Nat.add_assoc]

end Sys2Proof.Machine
end

section
/-! The statements of 20_memory.md. -/

namespace Sys2Proof.Machine

/-- Settles O36, by what a step can append to the event list. -/
theorem stepSendsUpdatedRegistersOnce : Obligations.StepSendsUpdatedRegistersOnce := by
  intro s t h
  obtain ⟨hlink, hcommand⟩ | ⟨hlink, hsilent⟩ := step_link_cases h
  · have hevents := stepEvents_of_link_eq_append hlink
    exact ⟨by rw [hevents, hlink], .inl ⟨hevents, hcommand⟩⟩
  · have hevents := stepEvents_of_link_eq_append hlink
    exact ⟨by rw [hevents, hlink], .inr ⟨hevents, hsilent⟩⟩

/-- Settles O45, by induction on the queue. -/
theorem offeredCommandsAllComplete : Obligations.OfferedCommandsAllComplete := by
  intro s hfaulted hrefused hready hdecode
  have hrun : s.ended = false := by rw [State.ended, hfaulted, hrefused, Bool.or_false]
  exact runFor_completes_queue (fun cmd i hi => by simp only [hi]) hrun hready rfl hdecode

end Sys2Proof.Machine
end

section
/-! Bit fields as numbers, and a command word by its OP: the decoder's equation for each row, and the encoder as the
decoder's inverse (30_encoding.md R60 to R63, R70). -/

namespace Sys2Proof

/-- A concatenation as a number: the high part weighs `2 ^ n`. -/
theorem toNat_append_eq_add {m n : Nat} (x : BitVec m) (y : BitVec n) :
    (x ++ y).toNat = x.toNat * 2 ^ n + y.toNat := by
  rw [BitVec.toNat_append, ← Nat.shiftLeft_add_eq_or_of_lt y.isLt, Nat.shiftLeft_eq]

theorem toNat_extractLsb'_eq_div_mod {n : Nat} (x : BitVec n) (start len : Nat) :
    (x.extractLsb' start len).toNat = x.toNat / 2 ^ start % 2 ^ len := by
  rw [BitVec.extractLsb'_toNat, Nat.shiftRight_eq_div_pow]

theorem decodeWord_init {w : CommandWord} (h : wordOp w = 0x1#4) :
    decodeWord w = .command (.init (wordArg w)) := by
  simp [decodeWord, h]

theorem decodeWord_outputOn {w : CommandWord} (h : wordOp w = 0x2#4) :
    decodeWord w = .command (.outputOn (wordArg w)) := by
  simp [decodeWord, h]

theorem decodeWord_outputOff {w : CommandWord} (h : wordOp w = 0x3#4) :
    decodeWord w = .command (.outputOff (wordArg w)) := by
  simp [decodeWord, h]

theorem decodeWord_setFreq {w : CommandWord} (h : wordOp w = 0x4#4) :
    decodeWord w = .command (.setFreq (.binary32 (wordArg w))) := by
  simp [decodeWord, h]

theorem decodeWord_setWave {w : CommandWord} (h : wordOp w = 0x5#4) :
    decodeWord w = .command (.setWave (argAboveCode (wordArg w)) (argCode (wordArg w))) := by
  simp [decodeWord, h]

/-- A word is RESERVED exactly when its OP is none of the five (30_encoding.md R62). -/
theorem decodeWord_reserved_iff {w : CommandWord} :
    decodeWord w = .reserved ↔
      wordOp w ≠ 0x1#4 ∧ wordOp w ≠ 0x2#4 ∧ wordOp w ≠ 0x3#4 ∧ wordOp w ≠ 0x4#4 ∧ wordOp w ≠ 0x5#4 := by
  constructor
  · intro h
    exact ⟨fun hop => (nomatch (decodeWord_init hop).symm.trans h),
      fun hop => (nomatch (decodeWord_outputOn hop).symm.trans h),
      fun hop => (nomatch (decodeWord_outputOff hop).symm.trans h),
      fun hop => (nomatch (decodeWord_setFreq hop).symm.trans h),
      fun hop => (nomatch (decodeWord_setWave hop).symm.trans h)⟩
  · rintro ⟨hinit, hon, hoff, hfreq, hwave⟩
    rw [decodeWord, if_neg hinit, if_neg hon, if_neg hoff, if_neg hfreq, if_neg hwave]

theorem wordOf_wordArg {w : CommandWord} {op : BitVec 4} (h : wordOp w = op) : wordOf op (wordArg w) = w := by
  rw [← h, wordOf_op_arg]

/-- A word that decodes to a command is that command's encoding. -/
theorem encode_of_decodeWord {w : CommandWord} {i : Instr} (h : decodeWord w = .command i) : encode i = .word w := by
  unfold decodeWord at h
  split at h
  · next hop => cases h; exact congrArg _ (wordOf_wordArg hop)
  split at h
  · next hop => cases h; exact congrArg _ (wordOf_wordArg hop)
  split at h
  · next hop => cases h; exact congrArg _ (wordOf_wordArg hop)
  split at h
  · next hop => cases h; exact congrArg _ (wordOf_wordArg hop)
  split at h
  · next hop => cases h; rw [encode, argAboveCode_append_argCode, wordOf_wordArg hop]
  · cases h

theorem encode_of_decode {cmd : Command} {i : Instr} (h : decode cmd = .command i) : encode i = cmd := by
  cases cmd with
  | word w => exact encode_of_decodeWord h
  | exactFreq f => cases h; rfl

theorem inFormat_word_wordOf (fmt : FreqFormat) (op : BitVec 4) (arg : BitVec 32) :
    (Command.word (wordOf op arg)).inFormat fmt = (fmt == .binary32 || op != 0x4#4) :=
  congrArg (fun o => fmt == .binary32 || o != 0x4#4) (wordOp_wordOf op arg)

/-- An instruction's encoding exists under the FREQ_FORMATs of the instruction (30_encoding.md R63). -/
theorem inFormat_encode (fmt : FreqFormat) (i : Instr) : (encode i).inFormat fmt = i.inFormat fmt := by
  cases i with
  | setFreq f =>
    cases f with
    | binary32 a => rw [encode, inFormat_word_wordOf]; cases fmt <;> rfl
    | rational f => cases fmt <;> rfl
  | _ => rw [encode, inFormat_word_wordOf]; exact Bool.or_true _

theorem wordOp_eq_ofNat_iff {w : CommandWord} {n : Nat} (hn : n < 2 ^ 4) :
    wordOp w = BitVec.ofNat 4 n ↔ w.toNat / 2 ^ 32 = n := by
  rw [BitVec.toNat_eq, wordOp_toNat, BitVec.toNat_ofNat, Nat.mod_eq_of_lt hn]

/-- A command word is its OP at bit 32, and its operand added. -/
theorem wordOf_eq_add (op : BitVec 4) (arg : BitVec 32) :
    wordOf op arg = BitVec.ofNat 36 (op.toNat * 2 ^ 32) + arg.setWidth 36 := by
  have hop := op.isLt
  have harg := arg.isLt
  apply BitVec.eq_of_toNat_eq
  rw [wordOf, toNat_append_eq_add, BitVec.toNat_add, BitVec.toNat_ofNat, BitVec.toNat_setWidth]
  omega

/-- `ARG = zext_32(code)` when the bits SET_WAVE ignores are 0 (30_encoding.md R72). -/
theorem wordOf_code_eq_add (op : BitVec 4) (code : Byte) :
    wordOf op (0#24 ++ code) = BitVec.ofNat 36 (op.toNat * 2 ^ 32) + code.setWidth 36 := by
  have hcode : (0#24 ++ code : BitVec 32).setWidth 36 = code.setWidth 36 := by
    apply BitVec.eq_of_toNat_eq
    rw [BitVec.toNat_setWidth, BitVec.toNat_setWidth, toNat_append_eq_add, BitVec.toNat_zero, Nat.zero_mul,
      Nat.zero_add]
  rw [wordOf_eq_add, hcode]

end Sys2Proof
end

section
/-! The tuning word and the marker bits of a payload, read back from its four bytes (40_encoder.md R105, R108). -/

namespace Sys2Proof.Machine

/-- The tuning word read from any 32 bits, as a number: the markers count for nothing. -/
theorem payloadTuningWord_toNat (p : Payload) :
    (payloadTuningWord p).toNat =
      (p.toNat / 2 ^ 24 % 2 ^ 6) * 2 ^ 22 + (p.toNat / 2 ^ 16 % 2 ^ 8) * 2 ^ 14 + (p.toNat / 2 ^ 8 % 2 ^ 6) * 2 ^ 8 +
        p.toNat % 2 ^ 8 := by
  simp only [payloadTuningWord, payloadP1, payloadP3, toNat_append_eq_add, toNat_extractLsb'_eq_div_mod]
  omega

theorem payloadTuningWord_payloadOf (mode : MarkerMode) (w : TuningWord) :
    payloadTuningWord (payloadOf mode w) = w := by
  have hP0 := payloadOf_P0 mode w
  have hP1 := payloadOf_P1 mode w
  have hP2 := payloadOf_P2 mode w
  have hP3 := payloadOf_P3 mode w
  have hm0 := marker0_low mode
  have hm1 := marker1_low mode
  have hw := w.isLt
  rw [toNat_extractLsb'_eq_div_mod] at hP0 hP1 hP2 hP3
  rw [pow_zero, Nat.div_one] at hP3
  have hstripP0 : (payloadOf mode w).toNat / 2 ^ 24 % 2 ^ 6 = w.toNat / 2 ^ 22 := by omega
  have hstripP2 : (payloadOf mode w).toNat / 2 ^ 8 % 2 ^ 6 = w.toNat / 2 ^ 8 % 2 ^ 6 := by omega
  apply BitVec.eq_of_toNat_eq
  rw [payloadTuningWord_toNat, hstripP0, hP1, hstripP2, hP3]
  omega

/-- `P0[7:6]` is the marker of the high half (30_encoding.md R68). -/
theorem payloadOf_marker0 (mode : MarkerMode) (w : TuningWord) :
    (payloadOf mode w).extractLsb' 30 2 = (marker0 mode).extractLsb' 6 2 := by
  have hP0 := payloadOf_P0 mode w
  have hm0 := marker0_low mode
  have hw := w.isLt
  rw [toNat_extractLsb'_eq_div_mod] at hP0
  apply BitVec.eq_of_toNat_eq
  rw [toNat_extractLsb'_eq_div_mod, toNat_extractLsb'_eq_div_mod]
  omega

/-- `P2[7:6]` is the marker of the low half (30_encoding.md R68). -/
theorem payloadOf_marker1 (mode : MarkerMode) (w : TuningWord) :
    (payloadOf mode w).extractLsb' 14 2 = (marker1 mode).extractLsb' 6 2 := by
  have hP2 := payloadOf_P2 mode w
  have hm1 := marker1_low mode
  rw [toNat_extractLsb'_eq_div_mod] at hP2
  apply BitVec.eq_of_toNat_eq
  rw [toNat_extractLsb'_eq_div_mod, toNat_extractLsb'_eq_div_mod]
  omega

end Sys2Proof.Machine
end

section
/-! A finite binary32 pattern is a sign and a magnitude counted in units of `2^(-149)` (30_encoding.md R64). -/

namespace Sys2Proof.Machine

theorem binary32Sign_pattern (sign : Bool) (exponent fraction : Nat) :
    binary32Sign (binary32Pattern sign exponent fraction) = sign :=
  (BitVec.getLsbD_append (x := BitVec.ofBool sign) (i := 31)).trans (by simp)

theorem binary32Exponent_pattern (sign : Bool) {exponent : Nat} (h : exponent < 2 ^ 8) (fraction : Nat) :
    binary32Exponent (binary32Pattern sign exponent fraction) = exponent := by
  have hfield : (binary32Pattern sign exponent fraction).extractLsb' 23 8 = BitVec.ofNat 8 exponent :=
    (BitVec.extractLsb'_append_eq_of_add_le (by decide)).trans BitVec.extractLsb'_append_eq_left
  rw [binary32Exponent, hfield, BitVec.toNat_ofNat, Nat.mod_eq_of_lt h]

theorem binary32Fraction_pattern (sign : Bool) (exponent : Nat) {fraction : Nat} (h : fraction < 2 ^ 23) :
    binary32Fraction (binary32Pattern sign exponent fraction) = fraction := by
  have hfield : (binary32Pattern sign exponent fraction).extractLsb' 0 23 = BitVec.ofNat 23 fraction :=
    (BitVec.extractLsb'_append_eq_of_add_le (by decide)).trans BitVec.extractLsb'_append_eq_right
  rw [binary32Fraction, hfield, BitVec.toNat_ofNat, Nat.mod_eq_of_lt h]

theorem binary32Fraction_lt (a : BitVec 32) : binary32Fraction a < 2 ^ 23 := (a.extractLsb' 0 23).isLt

theorem binary32Exponent_lt (a : BitVec 32) : binary32Exponent a < 2 ^ 8 := (a.extractLsb' 23 8).isLt

theorem signedBy_mul (sign : Bool) (m n : Nat) : signedBy sign (m * n) = signedBy sign m * n := by
  cases sign with
  | false => exact Nat.cast_mul m n
  | true => exact (congrArg Neg.neg (Nat.cast_mul m n)).trans (neg_mul _ _).symm

theorem signedBy_natAbs (z : Int) : signedBy (decide (z < 0)) z.natAbs = z := by
  by_cases h : z < 0
  · rw [decide_eq_true h]
    exact (congrArg Neg.neg (Int.ofNat_natAbs_of_nonpos h.le)).trans (neg_neg z)
  · rw [decide_eq_false h]
    exact Int.natAbs_of_nonneg (not_lt.mp h)

theorem natAbs_signedBy (sign : Bool) (n : Nat) : (signedBy sign n).natAbs = n := by
  cases sign with
  | false => exact Int.natAbs_natCast n
  | true => exact (Int.natAbs_neg n).trans (Int.natAbs_natCast n)

theorem scaled_value (v : Int) (k : Nat) :
    ((scaled v k).num : ℚ) / ((scaled v k).den : ℚ) = v * (2 : ℚ) ^ ((k : ℤ) - 150) := by
  unfold scaled
  split
  · next h =>
    have hexponent : (k : ℤ) - 150 = ((k - 150 : ℕ) : ℤ) := by omega
    rw [hexponent, zpow_natCast]
    push_cast
    exact div_one _
  · next h =>
    have hexponent : (k : ℤ) - 150 = -((150 - k : ℕ) : ℤ) := by omega
    rw [hexponent, zpow_neg, zpow_natCast]
    push_cast
    exact div_eq_mul_inv _ _

theorem two_zpow_succ_sub_150 (j : ℕ) : (2 : ℚ) ^ (((j + 1 : ℕ) : ℤ) - 150) = 2 ^ j / 2 ^ 149 := by
  have hexponent : ((j + 1 : ℕ) : ℤ) - 150 = (j : ℤ) - (149 : ℕ) := by omega
  rw [hexponent, zpow_sub₀ two_ne_zero, zpow_natCast, zpow_natCast]

/-- The magnitude of a finite pattern in units of `2^(-149)`. -/
def binary32Units (a : BitVec 32) : Nat :=
  if binary32Exponent a = 0 then binary32Fraction a
  else (2 ^ 23 + binary32Fraction a) * 2 ^ (binary32Exponent a - 1)

/-- The value of a finite pattern is its units with its sign. -/
theorem binary32Val_eq_units {a : BitVec 32} (h : binary32Exponent a ≠ 255) :
    ∃ v, binary32Val a = some v ∧
      (v.num : ℚ) / (v.den : ℚ) = (signedBy (binary32Sign a) (binary32Units a) : ℚ) / 2 ^ 149 := by
  rw [binary32Val, if_neg h, binary32Units]
  by_cases hsub : binary32Exponent a = 0
  · refine ⟨_, if_pos hsub, ?_⟩
    rw [if_pos hsub, scaled_value, two_zpow_succ_sub_150 0, pow_zero, mul_one_div]
  · refine ⟨_, if_neg hsub, ?_⟩
    obtain ⟨j, hj⟩ := Nat.exists_eq_add_one_of_ne_zero hsub
    rw [if_neg hsub, scaled_value, hj, two_zpow_succ_sub_150, signedBy_mul]
    push_cast
    exact (mul_div_assoc _ _ _).symm

/-- A fraction is `z` units of `2^(-149)`, as an equation of integers. -/
theorem value_eq_units_iff (f : ExactFreq) (z : ℤ) :
    (f.num : ℚ) / (f.den : ℚ) = (z : ℚ) / 2 ^ 149 ↔ f.num * 2 ^ 149 = z * f.den := by
  have hden : (f.den : ℚ) ≠ 0 := Nat.cast_ne_zero.mpr f.den_pos.ne'
  rw [div_eq_div_iff hden (by positivity)]
  exact_mod_cast Iff.rfl

end Sys2Proof.Machine
end

section
/-! The assembler's choice of a pattern: it gives one with the magnitude asked for, and finds the magnitude of every finite
pattern (30_encoding.md R71). -/

namespace Sys2Proof.Machine

/-- The leading bit of a normal magnitude is that of `2^23`, shifted. -/
theorem log2_normal_units {m : Nat} (hm : m < 2 ^ 23) (j : Nat) : Nat.log2 ((2 ^ 23 + m) * 2 ^ j) = 23 + j := by
  have hpos : (2 ^ 23 + m) * 2 ^ j ≠ 0 := by positivity
  refine (Nat.log2_eq_iff hpos).mpr ⟨?_, ?_⟩
  · rw [pow_add]
    exact Nat.mul_le_mul_right _ (Nat.le_add_right _ _)
  · rw [Nat.add_right_comm, pow_add]
    exact Nat.mul_lt_mul_of_pos_right (by omega) (Nat.two_pow_pos j)

/-- From `2^23` units on, the exponent the assembler takes leaves a significand of 24 bits. -/
theorem significand_bounds {n : Nat} (h : 2 ^ 23 ≤ n) :
    1 ≤ Nat.log2 n - 22 ∧ 2 ^ 23 ≤ n / 2 ^ (Nat.log2 n - 22 - 1) ∧ n / 2 ^ (Nat.log2 n - 22 - 1) < 2 ^ 24 := by
  have hn : n ≠ 0 := by omega
  obtain ⟨hlow, hhigh⟩ := (Nat.log2_eq_iff hn).mp rfl
  obtain ⟨j, hj⟩ := Nat.exists_eq_add_of_le ((Nat.le_log2 hn).mpr h)
  have hshift : Nat.log2 n - 22 - 1 = j := by omega
  rw [hj, pow_add] at hlow
  rw [hj, Nat.add_right_comm, pow_add, Nat.mul_comm] at hhigh
  rw [hshift]
  exact ⟨by omega, (Nat.le_div_iff_mul_le (Nat.two_pow_pos j)).mpr hlow, Nat.div_lt_of_lt_mul hhigh⟩

/-- A pattern the assembler gives is finite, with the sign and the magnitude asked for. -/
theorem binary32OfUnits_eq_some {sign : Bool} {n : Nat} {a : BitVec 32} (h : binary32OfUnits sign n = some a) :
    binary32Exponent a ≠ 255 ∧ binary32Sign a = sign ∧ binary32Units a = n := by
  unfold binary32OfUnits at h
  split at h
  · next hsub =>
    cases h
    have hexponent := binary32Exponent_pattern sign (Nat.two_pow_pos 8) n
    refine ⟨by rw [hexponent]; decide, binary32Sign_pattern _ _ _, ?_⟩
    rw [binary32Units, if_pos hexponent, binary32Fraction_pattern _ _ hsub]
  · next hnormal =>
    obtain ⟨hpos, hlow, hhigh⟩ := significand_bounds (not_lt.mp hnormal)
    dsimp only at h
    generalize Nat.log2 n - 22 = e at h hpos hlow hhigh
    split at h
    · next hfits =>
      obtain ⟨he, hexact⟩ := hfits
      cases h
      have hexponent := binary32Exponent_pattern sign (show e < 2 ^ 8 by omega) (n / 2 ^ (e - 1) - 2 ^ 23)
      refine ⟨by omega, binary32Sign_pattern _ _ _, ?_⟩
      rw [binary32Units, hexponent, if_neg (by omega), binary32Fraction_pattern _ _ (by omega),
        Nat.add_sub_cancel' hlow]
      exact Nat.div_mul_cancel (Nat.dvd_of_mod_eq_zero hexact)
    · cases h

/-- The magnitude of a finite pattern is assembled, with either sign. -/
theorem binary32OfUnits_units (sign : Bool) {a : BitVec 32} (h : binary32Exponent a ≠ 255) :
    (binary32OfUnits sign (binary32Units a)).isSome = true := by
  have hm := binary32Fraction_lt a
  have he := binary32Exponent_lt a
  by_cases hsub : binary32Exponent a = 0
  · rw [binary32Units, if_pos hsub, binary32OfUnits, if_pos hm, Option.isSome_some]
  · obtain ⟨j, hj⟩ := Nat.exists_eq_add_one_of_ne_zero hsub
    have hunits : binary32Units a = (2 ^ 23 + binary32Fraction a) * 2 ^ j := by
      rw [binary32Units, if_neg hsub, hj, Nat.add_sub_cancel]
    have hexponent : Nat.log2 (binary32Units a) - 22 = j + 1 := by
      rw [hunits, log2_normal_units hm]; omega
    have hnormal : ¬binary32Units a < 2 ^ 23 := by
      rw [hunits, not_lt]
      exact (Nat.le_add_right _ _).trans (Nat.le_mul_of_pos_right _ (Nat.two_pow_pos j))
    have hexact : binary32Units a % 2 ^ j = 0 := by rw [hunits, Nat.mul_mod_left]
    have hfits : j + 1 ≤ 254 := by omega
    rw [binary32OfUnits, if_neg hnormal]
    simp [hexponent, hfits, hexact]

/-- A fraction of `n` units is assembled as `n` units. -/
theorem binary32Of_of_units {f : ExactFreq} {n : Nat} (h : f.num.natAbs * 2 ^ 149 = n * f.den) :
    binary32Of f = binary32OfUnits (decide (f.num < 0)) n := by
  rw [binary32Of, h, if_pos (Nat.mul_mod_left _ _), Nat.mul_div_cancel _ f.den_pos]

/-- A fraction that is assembled is a whole number of units. -/
theorem binary32Of_eq_some {f : ExactFreq} {a : BitVec 32} (h : binary32Of f = some a) :
    ∃ n, f.num.natAbs * 2 ^ 149 = n * f.den ∧ binary32OfUnits (decide (f.num < 0)) n = some a := by
  unfold binary32Of at h
  split at h
  · next hexact => exact ⟨_, (Nat.div_mul_cancel (Nat.dvd_of_mod_eq_zero hexact)).symm, h⟩
  · cases h

end Sys2Proof.Machine
end

section
/-! What a step does to the host's queue (log 8). -/

namespace Sys2Proof.Machine

/-- A step adds nothing to the host's queue. -/
theorem step_pending_subset {s t : State} (h : step s = .next t) : t.pending ⊆ s.pending := by
  obtain ⟨-, ⟨-, rfl⟩ | ⟨cmd, rest, i, hpending, -, hexec⟩⟩ := step_next_cases h
  · exact List.Subset.refl _
  · obtain ⟨-, hrest, -⟩ := exec_frame hexec
    rw [hrest, hpending]
    exact List.subset_cons_self cmd rest

end Sys2Proof.Machine
end

section
/-! The statements of 30_encoding.md. -/

namespace Sys2Proof.Machine

/-- Settles O4, row by row. -/
theorem encodeThenDecode : Obligations.EncodeThenDecode := by
  intro i
  cases i with
  | init arg => rw [encode, decode, decodeWord_init (wordOp_wordOf _ _), wordArg_wordOf]
  | outputOn arg => rw [encode, decode, decodeWord_outputOn (wordOp_wordOf _ _), wordArg_wordOf]
  | outputOff arg => rw [encode, decode, decodeWord_outputOff (wordOp_wordOf _ _), wordArg_wordOf]
  | setFreq f =>
    cases f with
    | binary32 a => rw [encode, decode, decodeWord_setFreq (wordOp_wordOf _ _), wordArg_wordOf]
    | rational f => rfl
  | setWave unused code =>
    rw [encode, decode, decodeWord_setWave (wordOp_wordOf _ _), wordArg_wordOf, argAboveCode_append, argCode_append]

/-- Settles O5: the encoder inverts the decoder, and an encoding has its instruction's formats. -/
theorem decodeThenEncode : Obligations.DecodeThenEncode := by
  intro cmd i h
  obtain rfl := encode_of_decode h
  exact ⟨rfl, fun fmt => inFormat_encode fmt i⟩

/-- Settles O6, by the decoder's equation for each OP. -/
theorem decodingReadsOpAlone : Obligations.DecodingReadsOpAlone := by
  intro w
  have hop {n : Nat} (hn : n < 2 ^ 4) := wordOp_eq_ofNat_iff (w := w) hn
  refine ⟨?reserved, fun h => ⟨_, decodeWord_init ((hop (by decide)).mpr h), wordArg_toNat w⟩,
    fun h => ⟨_, decodeWord_outputOn ((hop (by decide)).mpr h), wordArg_toNat w⟩,
    fun h => ⟨_, decodeWord_outputOff ((hop (by decide)).mpr h), wordArg_toNat w⟩,
    fun h => ⟨_, decodeWord_setFreq ((hop (by decide)).mpr h), wordArg_toNat w⟩,
    fun h => ⟨_, _, decodeWord_setWave ((hop (by decide)).mpr h), ?code⟩⟩
  case reserved =>
    rw [decodeWord_reserved_iff, Ne, Ne, Ne, Ne, Ne, hop (by decide), hop (by decide), hop (by decide),
      hop (by decide), hop (by decide)]
    omega
  case code =>
    rw [argCode, toNat_extractLsb'_eq_div_mod, wordArg_toNat]
    omega

/-- Settles O33, by the payload's bytes as numbers. -/
theorem payloadDecodesToTuningWord : Obligations.PayloadDecodesToTuningWord := by
  rintro mode f draw p rfl
  rw [encodeFrequency]
  refine ⟨payloadTuningWord_payloadOf _ _, payloadTuningWord_toNat _, ?_, ?_⟩
  · rw [payloadOf_marker0]; cases mode <;> rfl
  · rw [payloadOf_marker1]; cases mode <;> rfl

/-- Settles O49: decimal and pattern are compared as whole numbers of units of `2^(-149)`. -/
theorem decimalsAssembleExactly : Obligations.DecimalsAssembleExactly := by
  intro f
  refine ⟨fun a ha => ?exact, fun a v hv hvalue => ?found⟩
  case exact =>
    obtain ⟨n, hunits, hpattern⟩ := binary32Of_eq_some ha
    obtain ⟨hfinite, hsign, rfl⟩ := binary32OfUnits_eq_some hpattern
    obtain ⟨v, hv, hvalue⟩ := binary32Val_eq_units hfinite
    refine ⟨v, hv, hvalue.trans ((value_eq_units_iff f _).mpr ?_).symm⟩
    have hsigned := congrArg (signedBy (decide (f.num < 0))) hunits
    rw [signedBy_mul, signedBy_mul, signedBy_natAbs, ← hsign] at hsigned
    exact_mod_cast hsigned
  case found =>
    have hfinite : binary32Exponent a ≠ 255 := fun h => by rw [binary32Val, if_pos h] at hv; cases hv
    obtain ⟨v', hv', hvalue'⟩ := binary32Val_eq_units hfinite
    obtain rfl : v' = v := Option.some.inj (hv'.symm.trans hv)
    have hunits := congrArg Int.natAbs ((value_eq_units_iff f _).mp (hvalue.symm.trans hvalue'))
    rw [Int.natAbs_mul, Int.natAbs_mul, natAbs_signedBy, Int.natAbs_natCast] at hunits
    rw [binary32Of_of_units hunits]
    exact binary32OfUnits_units _ hfinite

/-- Settles O50: low `rst_n` is reset, and a block after reset is idle. -/
theorem lowResetPortRestartsTheBlock : Obligations.LowResetPortRestartsTheBlock := by
  intro p b hlow
  refine ⟨by simp [SerialBlock.accepts, SerialBlock.outputs, hlow], by simp [SerialBlock.outputs, hlow],
    b.reset, SerialBlock.clock_of_reset hlow b, rfl, ⟨_, rfl⟩, rfl, rfl, rfl, rfl, rfl, rfl, fun q hq => ?_⟩
  simp [SerialBlock.outputs, hq]

/-- Settles O3, word by word. -/
theorem tableWordsDecode : Obligations.TableWordsDecode := by
  unfold Obligations.TableWordsDecode
  decide

/-- Settles O44: a step adds nothing to the queue and keeps FREQ_FORMAT. -/
theorem stepKeepsHostFormat : Obligations.StepKeepsHostFormat := by
  intro s t hs h
  obtain ⟨hcfg, -⟩ := step_ctrl_cases h
  rw [State.hostKeepsFormat, List.all_eq_true] at hs ⊢
  rw [hcfg]
  exact fun cmd hcmd => hs cmd (step_pending_subset h hcmd)

/-- Settles O48: a word is its OP at bit 32 plus its operand. -/
theorem assembledWordsHaveZeroUnusedBits : Obligations.AssembledWordsHaveZeroUnusedBits := by
  intro cfg
  refine ⟨rfl, rfl, rfl, fun a => ?_, fun code => ?_, fun shape => ?_⟩
  · exact congrArg (some <| Command.word ·) (wordOf_eq_add 0x4#4 a)
  · exact congrArg (some <| Command.word ·) (wordOf_code_eq_add 0x5#4 code)
  · exact congrArg (some <| Command.word ·) (wordOf_code_eq_add 0x5#4 (cfg.waveCode shape))

/-- Settles O52: idle, both cycles look at the same command; busy, both are a bit-time. -/
theorem queueCycleIsPortCycle : Obligations.QueueCycleIsPortCycle := by
  intro b cmd rest hpending
  refine ⟨fun hidle => ?_, fun hbusy => ?_⟩
  · rw [SerialBlock.cycle_of_ready hidle, step_of_cons hpending]
    exact (SerialBlock.clock_of_ready (p := { rstN := true, cmdValid := true, cmd := cmd })
      (b := { b with regs := b.regs.withPending rest }) rfl hidle).symm
  · rw [SerialBlock.cycle_of_busy hbusy, SerialBlock.clock_of_busy rfl hbusy]

end Sys2Proof.Machine
end

section
/-! The encoder's numbers: `q` as a floor of the operand's value, `W` and the payload's bytes (40_encoder.md R102 to
R106). -/

namespace Sys2Proof.Machine

theorem num_nonneg_of_domain {f : FreqOperand} {v : ExactFreq} (h : domainVal f = some v) : 0 ≤ v.num :=
  (domainVal_eq_some.mp h).2

theorem value_nonneg {v : ExactFreq} (h : 0 ≤ v.num) : 0 ≤ (v.num : ℚ) / (v.den : ℚ) :=
  div_nonneg (Int.cast_nonneg h) (Nat.cast_nonneg _)

/-- `q = floor(2^28 * v / F_REF)` over the rationals (40_encoder.md R102). -/
theorem quantise_eq_floor {v : ExactFreq} (h : 0 ≤ v.num) :
    quantise v = ⌊(2 : ℚ) ^ 28 * ((v.num : ℚ) / (v.den : ℚ)) / 25000000⌋₊ := by
  have hnum : ((v.num.toNat : ℕ) : ℚ) = (v.num : ℚ) := by exact_mod_cast Int.toNat_of_nonneg h
  have hquotient : (2 : ℚ) ^ 28 * ((v.num : ℚ) / (v.den : ℚ)) / 25000000 =
      ((2 ^ 28 * v.num.toNat : ℕ) : ℚ) / ((Config.refClock * v.den : ℕ) : ℚ) := by
    rw [Config.refClock, Nat.cast_mul, Nat.cast_mul, hnum]
    push_cast
    ring
  rw [hquotient, Nat.floor_div_eq_div, quantise]

/-- `q` never decreases as the value grows. -/
theorem quantise_mono {v w : ExactFreq} (hv : 0 ≤ v.num) (hw : 0 ≤ w.num)
    (h : (v.num : ℚ) / (v.den : ℚ) ≤ (w.num : ℚ) / (w.den : ℚ)) : quantise v ≤ quantise w := by
  rw [quantise_eq_floor hv, quantise_eq_floor hw]
  gcongr

/-- Below F_REF, `q` fits the 28 bits of the tuning word (40_encoder.md R109 item 5). -/
theorem quantise_lt_of_lt_refClock {v : ExactFreq} (hv : 0 ≤ v.num)
    (h : (v.num : ℚ) / (v.den : ℚ) < 25000000) : quantise v < 2 ^ 28 := by
  rw [quantise_eq_floor hv, Nat.floor_lt' (by decide)]
  push_cast
  linarith

/-- One F_REF more in the value is `2^28` more in `q`. -/
theorem quantise_add_refClock {v w : ExactFreq} (hv : 0 ≤ v.num) (hw : 0 ≤ w.num)
    (h : (w.num : ℚ) / (w.den : ℚ) = (v.num : ℚ) / (v.den : ℚ) + 25000000) : quantise w = quantise v + 2 ^ 28 := by
  have hnonneg := value_nonneg hv
  have hsteps : (2 : ℚ) ^ 28 * ((w.num : ℚ) / (w.den : ℚ)) / 25000000 =
      2 ^ 28 * ((v.num : ℚ) / (v.den : ℚ)) / 25000000 + ((2 ^ 28 : ℕ) : ℚ) := by
    rw [h]; push_cast; ring
  rw [quantise_eq_floor hv, quantise_eq_floor hw, hsteps, Nat.floor_add_natCast (by positivity)]

/-- `q = k` for every value in `[k * F_REF / 2^28, (k+1) * F_REF / 2^28)` (40_encoder.md R110). -/
theorem quantise_eq_of_mem_step {v : ExactFreq} (hv : 0 ≤ v.num) {k : ℕ}
    (hlow : (k : ℚ) * 25000000 / 2 ^ 28 ≤ (v.num : ℚ) / (v.den : ℚ))
    (hhigh : (v.num : ℚ) / (v.den : ℚ) < ((k : ℚ) + 1) * 25000000 / 2 ^ 28) : quantise v = k := by
  have hnonneg := value_nonneg hv
  rw [quantise_eq_floor hv, Nat.floor_eq_iff (by positivity)]
  constructor <;> linarith

/-- `q` of a whole number of Hz, in whole numbers. -/
theorem quantise_of_value_eq_natCast {v : ExactFreq} (hv : 0 ≤ v.num) {n : ℕ}
    (h : (v.num : ℚ) / (v.den : ℚ) = n) : quantise v = 2 ^ 28 * n / 25000000 := by
  rw [quantise_eq_floor hv, h, ← Nat.floor_div_eq_div (K := ℚ)]
  push_cast
  rfl

/-- `q` is at most that of any whole number of Hz that the value does not exceed. -/
theorem quantise_le_of_value_le_natCast {v : ExactFreq} (hv : 0 ≤ v.num) {n : ℕ}
    (h : (v.num : ℚ) / (v.den : ℚ) ≤ n) : quantise v ≤ 2 ^ 28 * n / 25000000 := by
  have hn : quantise { num := n, den := 1 } = 2 ^ 28 * n / 25000000 :=
    quantise_of_value_eq_natCast (Int.natCast_nonneg n) (by simp)
  exact hn ▸ quantise_mono hv (Int.natCast_nonneg n) (by simpa using h)

/-- `W = q mod 2^28` (40_encoder.md R103). -/
theorem tuningWord_toNat {f : FreqOperand} {v : ExactFreq} (h : domainVal f = some v) (draw : TuningWord) :
    (tuningWord f draw).toNat = quantise v % 2 ^ 28 := by
  rw [tuningWord_of_domain h, BitVec.toNat_ofNat]

/-- An operand in the domain takes no draw. -/
theorem tuningWord_eq_of_isSome {f : FreqOperand} (h : (domainVal f).isSome = true) (draw draw' : TuningWord) :
    tuningWord f draw = tuningWord f draw' := by
  obtain ⟨v, hv⟩ := Option.isSome_iff_exists.mp h
  rw [tuningWord_of_domain hv, tuningWord_of_domain hv]

/-- `M0` by the MARKER_MODE (30_encoding.md R68). -/
theorem marker0_toNat (mode : MarkerMode) :
    (marker0 mode).toNat = match mode with | .perHalf => 0x40 | .bothSlot0 => 0x40 | .bothSlot1 => 0x80 := by
  cases mode <;> rfl

/-- `M1` by the MARKER_MODE (30_encoding.md R68). -/
theorem marker1_toNat (mode : MarkerMode) :
    (marker1 mode).toNat = match mode with | .perHalf => 0x80 | .bothSlot0 => 0x40 | .bothSlot1 => 0x80 := by
  cases mode <;> rfl

/-- The four bytes of a payload as numbers (40_encoder.md R105). -/
theorem payloadOf_bytes {mode : MarkerMode} {word : TuningWord} {w m0 m1 : Nat} (hw : w = word.toNat)
    (hm0 : m0 = (marker0 mode).toNat) (hm1 : m1 = (marker1 mode).toNat) :
    ((payloadOf mode word).extractLsb' 24 8).toNat = m0 + w / 2 ^ 22 ∧
    ((payloadOf mode word).extractLsb' 16 8).toNat = w / 2 ^ 14 % 2 ^ 8 ∧
    ((payloadOf mode word).extractLsb' 8 8).toNat = m1 + w / 2 ^ 8 % 2 ^ 6 ∧
    ((payloadOf mode word).extractLsb' 0 8).toNat = w % 2 ^ 8 := by
  subst hw hm0 hm1
  exact ⟨payloadOf_P0 mode word, payloadOf_P1 mode word, payloadOf_P2 mode word, payloadOf_P3 mode word⟩

end Sys2Proof.Machine
end

section
/-! SET_FREQ of a running block whose link is ready (41_commands.md R124). -/

namespace Sys2Proof.Machine

/-- Only an operand outside the domain advances the draw counter (40_encoder.md R106, log 5). -/
theorem loadFrequency_draws (f : FreqOperand) (s : State) :
    (loadFrequency f s).draws = if (domainVal f).isSome then s.draws else s.draws + 1 := by
  rw [loadFrequency]
  split <;> rfl

/-- Everything SET_FREQ does where it completes. -/
theorem exec_setFreq_of_ready {s : State} (hfaulted : s.faulted = false) (hrefused : s.refused = false)
    (hready : s.linkReady = true) (f : FreqOperand) :
    ∃ t, exec (.setFreq f) s = .next t ∧
      t.payload = payloadOf s.cfg.markerMode (tuningWord f (Config.freeTuningWord s.draws)) ∧
      t.draws = (if (domainVal f).isSome then s.draws else s.draws + 1) ∧
      t.ctrl = s.ctrl ∧ t.link = s.link ++ transaction s.ctrl t.payload ∧
      t.csN = true ∧ t.linkReady = true ∧ t.faulted = false ∧ t.refused = false ∧ t.pending = s.pending ∧
      t.cfg = s.cfg := by
  have hrun : s.ended = false := by rw [State.ended, hfaulted, hrefused, Bool.or_false]
  have hexec := exec_of_ready (i := .setFreq f) rfl hrun hready
  obtain ⟨hcfg, hpending, hfaulted', hrefused', hselect⟩ := exec_frame hexec
  obtain ⟨hready', hlink⟩ := exec_transmits_next rfl hexec
  obtain ⟨-, hctrl, hpayload⟩ := exec_setFreq_next hexec
  have hdraws := (transmit_draws _).trans (loadFrequency_draws f s)
  exact ⟨_, hexec, hpayload, hdraws, hctrl, hctrl ▸ hlink, hselect, hready'.trans hready, hfaulted'.trans hfaulted,
    hrefused'.trans hrefused, hpending, hcfg⟩

end Sys2Proof.Machine
end

section
/-! The values of binary32 operands from `2^24` on, where neighbouring patterns are 2 Hz apart or more (40_encoder.md
R109 item 7). -/

namespace Sys2Proof.Machine

/-- A magnitude from `2^24` Hz on is a whole number of steps of 2 Hz: its significand has 24 bits. -/
theorem two_pow_150_dvd_units {a : BitVec 32} (h : 2 ^ 173 ≤ binary32Units a) : 2 ^ 150 ∣ binary32Units a := by
  have hm := binary32Fraction_lt a
  unfold binary32Units at h ⊢
  split
  · next hsub => rw [if_pos hsub] at h; omega
  · next hnormal =>
    rw [if_neg hnormal] at h
    have hlarge : 2 ^ 24 * 2 ^ 149 < 2 ^ 24 * 2 ^ (binary32Exponent a - 1) :=
      calc 2 ^ 24 * 2 ^ 149
          = 2 ^ 173 := by norm_num
        _ ≤ (2 ^ 23 + binary32Fraction a) * 2 ^ (binary32Exponent a - 1) := h
        _ < 2 ^ 24 * 2 ^ (binary32Exponent a - 1) := Nat.mul_lt_mul_of_pos_right (by omega) (Nat.two_pow_pos _)
    have hexponent := (Nat.pow_lt_pow_iff_right Nat.one_lt_two).mp (Nat.lt_of_mul_lt_mul_left hlarge)
    exact (Nat.pow_dvd_pow 2 hexponent).mul_left _

/-- A binary32 value is below `2^24`, or an even number. -/
theorem binary32Val_lt_or_even {a : BitVec 32} {v : ExactFreq} (h : binary32Val a = some v) :
    (v.num : ℚ) / (v.den : ℚ) < 2 ^ 24 ∨ ∃ n : ℕ, (v.num : ℚ) / (v.den : ℚ) = (2 * n : ℕ) := by
  have hfinite : binary32Exponent a ≠ 255 := fun he => by rw [binary32Val, if_pos he] at h; cases h
  obtain ⟨v', hv', hvalue⟩ := binary32Val_eq_units hfinite
  obtain rfl : v' = v := Option.some.inj (hv'.symm.trans h)
  rw [hvalue, div_lt_iff₀ (by positivity), ← pow_add]
  cases binary32Sign a with
  | true =>
    left
    rw [signedBy, if_pos rfl]
    push_cast
    exact (neg_nonpos.mpr (Nat.cast_nonneg _)).trans_lt (by positivity)
  | false =>
    rw [signedBy, if_neg Bool.false_ne_true, Int.cast_natCast]
    by_cases hlarge : 2 ^ 173 ≤ binary32Units a
    · obtain ⟨n, hn⟩ := two_pow_150_dvd_units hlarge
      refine .inr ⟨n, ?_⟩
      rw [hn]
      push_cast
      ring
    · left
      exact_mod_cast not_le.mp hlarge

/-- No binary32 value lies between 24,999,998 and F_REF. -/
theorem binary32Val_le_of_lt_refClock {a : BitVec 32} {v : ExactFreq} (h : binary32Val a = some v)
    (hlt : (v.num : ℚ) / (v.den : ℚ) < 25000000) : (v.num : ℚ) / (v.den : ℚ) ≤ (24999998 : ℕ) := by
  obtain hsmall | ⟨n, hn⟩ := binary32Val_lt_or_even h
  · push_cast
    linarith
  · rw [hn] at hlt ⊢
    have hlt' : 2 * n < 25000000 := by exact_mod_cast hlt
    exact Nat.cast_le.mpr (by omega)

/-- The bands of `W = 0xFFFFFFF` lie above `2^24` and hold no whole number. -/
theorem binary32_quantise_mod_ne {a : BitVec 32} {v : ExactFreq} (h : binary32Val a = some v) (hv : 0 ≤ v.num) :
    quantise v % 2 ^ 28 ≠ 0xFFFFFFF := by
  obtain hsmall | ⟨n, hn⟩ := binary32Val_lt_or_even h
  · have hle := quantise_le_of_value_le_natCast hv (n := 2 ^ 24) (by exact_mod_cast hsmall.le)
    omega
  · rw [quantise_of_value_eq_natCast hv hn]
    omega

end Sys2Proof.Machine
end

section
/-! The statements of 40_encoder.md. -/

namespace Sys2Proof.Machine

/-- Settles O16: SET_FREQ loads the payload of the operand's tuning word, and the operand takes no draw. -/
theorem setFreqLoadsTuningWord : Obligations.SetFreqLoadsTuningWord := by
  intro s f v hfaulted hrefused hready hvalue hnonneg
  have hdomain : domainVal f = some v := domainVal_eq_some.mpr ⟨hvalue, hnonneg⟩
  obtain ⟨t, hexec, hpayload, hdraws, hctrl, hlink, hselect, hready', hfaulted', hrefused', hpending, hcfg⟩ :=
    exec_setFreq_of_ready hfaulted hrefused hready f
  rw [hdomain, Option.isSome_some, if_pos rfl] at hdraws
  refine ⟨t, hexec, fun w m0 m1 hw hm0 hm1 => ?bytes, hctrl, hlink, hselect, hready', hfaulted', hrefused', hpending,
    hdraws, hcfg⟩
  rw [hpayload]
  exact payloadOf_bytes (hw.trans (tuningWord_toNat hdomain _).symm) (hm0.trans (marker0_toNat _).symm)
    (hm1.trans (marker1_toNat _).symm)

/-- Settles O17: outside the domain the tuning word is the draw, and the counter advances. -/
theorem setFreqOutOfDomainDraws : Obligations.SetFreqOutOfDomainDraws := by
  intro s f hfaulted hrefused hready houtside
  have hdomain : domainVal f = none := domainVal_eq_none.mpr houtside
  obtain ⟨t, hexec, hpayload, hdraws, hctrl, hlink, hselect, hready', hfaulted', hrefused', hpending, hcfg⟩ :=
    exec_setFreq_of_ready hfaulted hrefused hready f
  rw [hdomain, Option.isSome_none, if_neg Bool.false_ne_true] at hdraws
  refine ⟨t, hexec, fun w m0 m1 hw hm0 hm1 => ?bytes, hctrl, hlink, hselect, hready', hfaulted', hrefused', hpending,
    hdraws, hcfg⟩
  rw [hpayload, tuningWord_of_outside hdomain]
  exact payloadOf_bytes hw (hm0.trans (marker0_toNat _).symm) (hm1.trans (marker1_toNat _).symm)

/-- Settles O27: the second SET_FREQ meets the same CTRL and MARKER_MODE, and neither takes a draw. -/
theorem sameFrequencyTwiceSendsTheSame : Obligations.SameFrequencyTwiceSendsTheSame := by
  intro s f hfaulted hrefused hready hdomain
  obtain ⟨t, hexec, hpayload, -, hctrl, hlink, -, hreadyT, hfaultedT, hrefusedT, -, hcfg⟩ :=
    exec_setFreq_of_ready hfaulted hrefused hready f
  obtain ⟨u, hexecU, hpayloadU, -, -, hlinkU, -⟩ := exec_setFreq_of_ready hfaultedT hrefusedT hreadyT f
  have hsame : u.payload = t.payload := by
    rw [hpayloadU, hpayload, hcfg, tuningWord_eq_of_isSome hdomain]
  exact ⟨t, u, hexec, hexecU, hsame, hctrl.symm ▸ hlink, hsame ▸ hlinkU⟩

/-- Settles O29: F_REF is `2^6 * 390625`. -/
theorem quantisationIsExactFloor : Obligations.QuantisationIsExactFloor := by
  intro f v hdomain
  have hnonneg := num_nonneg_of_domain hdomain
  have hvalue := value_nonneg hnonneg
  have hfloor : (quantise v : ℤ) = ⌊(2 : ℚ) ^ 28 * ((v.num : ℚ) / (v.den : ℚ)) / 25000000⌋ := by
    rw [quantise_eq_floor hnonneg, Int.natCast_floor_eq_floor (by positivity)]
  refine ⟨hfloor, hfloor.trans (congrArg Int.floor ?_)⟩
  ring

/-- Settles O30, by what each hypothesis says of `q`. -/
theorem tuningWordBelowAndAboveReference : Obligations.TuningWordBelowAndAboveReference := by
  have hbelow : ∀ {f : FreqOperand} {v : ExactFreq} (draw : TuningWord), domainVal f = some v →
      (v.num : ℚ) / (v.den : ℚ) < 25000000 → quantise v < 2 ^ 28 ∧ (tuningWord f draw).toNat = quantise v := by
    intro f v draw hv hlt
    have hfits := quantise_lt_of_lt_refClock (num_nonneg_of_domain hv) hlt
    exact ⟨hfits, by rw [tuningWord_toNat hv, Nat.mod_eq_of_lt hfits]⟩
  refine ⟨fun f v draw => hbelow draw, fun f g v w draw draw' hv hw hle hlt => ?mono,
    fun f g v w draw draw' hv hw hsum => ?wrap⟩
  case mono =>
    obtain ⟨-, hwordV⟩ := hbelow draw hv (hle.trans_lt hlt)
    obtain ⟨-, hwordW⟩ := hbelow draw' hw hlt
    rw [hwordV, hwordW]
    exact quantise_mono (num_nonneg_of_domain hv) (num_nonneg_of_domain hw) hle
  case wrap =>
    apply BitVec.eq_of_toNat_eq
    have hq := quantise_add_refClock (num_nonneg_of_domain hv) (num_nonneg_of_domain hw) hsum
    rw [tuningWord_toNat hw, tuningWord_toNat hv, hq, Nat.add_mod_right]

/-- Settles O31: from `2^24` Hz on binary32 values are even numbers. -/
theorem largestBinary32TuningWord : Obligations.LargestBinary32TuningWord := by
  refine ⟨fun a v draw hv hword => ?never, fun a v draw hv hlt => ?most, fun draw => ?reached, fun draw => ?exact⟩
  case never =>
    obtain ⟨hvalue, hnonneg⟩ := domainVal_eq_some.mp hv
    exact binary32_quantise_mod_ne hvalue hnonneg ((tuningWord_toNat hv draw).symm.trans (congrArg BitVec.toNat hword))
  case most =>
    obtain ⟨hvalue, hnonneg⟩ := domainVal_eq_some.mp hv
    calc (tuningWord (.binary32 a) draw).toNat
        = quantise v % 2 ^ 28 := tuningWord_toNat hv draw
      _ ≤ quantise v := Nat.mod_le _ _
      _ ≤ 2 ^ 28 * 24999998 / 25000000 :=
        quantise_le_of_value_le_natCast hnonneg (binary32Val_le_of_lt_refClock hvalue hlt)
      _ = 0xFFFFFEA := by decide
  case reached => exact (tuningWord_eq_of_isSome (by decide) draw 0#28).trans (by decide)
  case exact => exact (tuningWord_eq_of_isSome (by decide) draw 0#28).trans (by decide)

/-- Settles O32: both operands have `q = k`. -/
theorem sameResolutionStepSamePayload : Obligations.SameResolutionStepSamePayload := by
  intro f g v w k mode draw draw' hv hw hlowV hhighV hlowW hhighW
  have hqV : quantise v = k := quantise_eq_of_mem_step (num_nonneg_of_domain hv) hlowV hhighV
  have hqW : quantise w = k := quantise_eq_of_mem_step (num_nonneg_of_domain hw) hlowW hhighW
  rw [encodeFrequency, encodeFrequency, tuningWord_of_domain hv, tuningWord_of_domain hw, hqV, hqW]

/-- Settles O34: none of the six operands takes a draw, so each payload can be computed. -/
theorem encoderCornerPayloads : Obligations.EncoderCornerPayloads := by
  intro draw
  have hcorner {f : FreqOperand} {p : Payload} (hdomain : (domainVal f).isSome = true)
      (hpayload : encodeFrequency .perHalf f 0#28 = p) : encodeFrequency .perHalf f draw = p :=
    (congrArg (payloadOf .perHalf) (tuningWord_eq_of_isSome hdomain draw 0#28)).trans hpayload
  exact ⟨hcorner (by decide) (by decide), hcorner (by decide) (by decide), hcorner (by decide) (by decide),
    hcorner (by decide) (by decide), hcorner (by decide) (by decide), hcorner (by decide) (by decide)⟩

end Sys2Proof.Machine
end

section
/-! What a command answers in each case of the checks, as an equation (41_commands.md R120, 60_exceptions.md R168). -/

namespace Sys2Proof.Machine

theorem State.ended_eq_false_iff {s : State} : s.ended = false ↔ s.faulted = false ∧ s.refused = false :=
  Bool.or_eq_false_iff

theorem State.ended_eq_true_iff {s : State} : s.ended = true ↔ s.faulted = true ∨ s.refused = true :=
  Bool.or_eq_true_iff

/-- INIT of a running block completes, whatever LINK_READY is (41_commands.md R121). -/
theorem exec_init_of_running {s : State} (hrun : s.ended = false) (arg : BitVec 32) :
    exec (.init arg) s = .next { s with linkReady := true, csN := true } :=
  unlessEnded_of_running hrun _

/-- A transmitting command of a running block whose link is not ready faults (60_exceptions.md R165). -/
theorem exec_of_not_ready {i : Instr} {s : State} (hi : transmits i = true) (hrun : s.ended = false)
    (hready : s.linkReady = false) : exec i s = .fault (.notInitialised (encode i) s.markFaulted) := by
  rw [exec_of_transmits hi, whenLinkReady, unlessEnded_of_running hrun, if_neg (by simp [hready]), raiseNotInitialised]

theorem transmits_of_ne_init {i : Instr} (hi : ∀ arg, i ≠ .init arg) : transmits i = true := by
  cases i with
  | init arg => exact absurd rfl (hi arg)
  | _ => rfl

/-- A running block completes every command that meets its check: INIT, or any other whose link is ready. -/
theorem exec_completes {i : Instr} {s : State} (hrun : s.ended = false)
    (hi : s.linkReady = true ∨ ∃ arg, i = .init arg) : ∃ t, exec i s = .next t := by
  obtain hready | ⟨arg, rfl⟩ := hi
  · obtain ⟨t, hexec, -⟩ := exec_completes_of_ready hrun hready i
    exact ⟨t, hexec⟩
  · exact ⟨_, exec_init_of_running hrun arg⟩

/-- A command that completes met its check, and leaves the link ready. -/
theorem exec_next_ready {i : Instr} {s t : State} (h : exec i s = .next t) :
    (s.linkReady = true ∨ ∃ arg, i = .init arg) ∧ t.linkReady = true := by
  obtain ⟨-, ⟨hi, rfl⟩ | ⟨hi, hready, rfl⟩⟩ := exec_next_cases h
  · obtain ⟨arg, rfl⟩ := transmits_eq_false hi
    exact ⟨.inr ⟨arg, rfl⟩, rfl⟩
  · exact ⟨.inl hready, by rw [transmit_linkReady, updateOf_linkReady hi, hready]⟩

theorem step_of_reserved {s : State} {cmd : Command} {rest : List Command} (hrun : s.ended = false)
    (hpending : s.pending = cmd :: rest) (hdecode : decode cmd = .reserved) :
    step s = .refused (.reservedOpcode cmd (s.withPending rest).markRefused) := by
  simp only [step_of_cons_running hrun hpending, runCommand, hdecode, refuseReserved]

theorem step_of_decode {s : State} {cmd : Command} {rest : List Command} {i : Instr} (hrun : s.ended = false)
    (hpending : s.pending = cmd :: rest) (hdecode : decode cmd = .command i) :
    step s = exec i (s.withPending rest) := by
  rw [step_of_cons_running hrun hpending, runCommand_of_decode hdecode]

end Sys2Proof.Machine
end

section
/-! The three commands that write CTRL, where they complete (41_commands.md R122, R123, R125). -/

namespace Sys2Proof.Machine

/-- `s` with the control word `v`, and the one transaction that sends it. -/
def State.withCtrlSent (s : State) (v : ControlWord) : State :=
  { s with ctrl := v, csN := true, link := s.link ++ transaction v s.payload }

@[simp] theorem State.withCtrlSent_ctrl (s : State) (v : ControlWord) : (s.withCtrlSent v).ctrl = v := rfl
@[simp] theorem State.withCtrlSent_cfg (s : State) (v : ControlWord) : (s.withCtrlSent v).cfg = s.cfg := rfl
@[simp] theorem State.withCtrlSent_linkReady (s : State) (v : ControlWord) :
    (s.withCtrlSent v).linkReady = s.linkReady := rfl
@[simp] theorem State.ended_withCtrlSent (s : State) (v : ControlWord) : (s.withCtrlSent v).ended = s.ended := rfl

theorem transmit_setCtrl (s : State) (v : ControlWord) : transmit (s.setCtrl v) = s.withCtrlSent v :=
  transmit_eq _

variable {s : State}

theorem exec_outputOn_of_ready (hrun : s.ended = false) (hready : s.linkReady = true) (arg : BitVec 32) :
    exec (.outputOn arg) s = .next (s.withCtrlSent (clearDisable s.cfg s.ctrl)) := by
  rw [exec_of_ready rfl hrun hready, updateOf, transmit_setCtrl]

theorem exec_outputOff_of_ready (hrun : s.ended = false) (hready : s.linkReady = true) (arg : BitVec 32) :
    exec (.outputOff arg) s = .next (s.withCtrlSent (setDisable s.cfg s.ctrl)) := by
  rw [exec_of_ready rfl hrun hready, updateOf, transmit_setCtrl]

theorem exec_setWave_of_ready (hrun : s.ended = false) (hready : s.linkReady = true) (unused : BitVec 24)
    (code : Byte) :
    exec (.setWave unused code) s = .next (s.withCtrlSent (setWaveform s.cfg code s.ctrl)) := by
  rw [exec_of_ready rfl hrun hready, updateOf, transmit_setCtrl]

/-- Clearing the mask's bits and setting the code's a second time changes nothing (41_commands.md R126). -/
theorem setWaveform_idem (cfg : Config) (code : Byte) (c : ControlWord) :
    setWaveform cfg code (setWaveform cfg code c) = setWaveform cfg code c := by
  apply BitVec.eq_of_getLsbD_eq
  intro k _
  by_cases hk : k < 8
  · simp only [setWaveform_getLsbD_low _ _ _ _ hk]
    cases cfg.waveClearMask.getLsbD k <;> simp
  · exact setWaveform_getLsbD_high _ _ _ _ (not_lt.mp hk)

end Sys2Proof.Machine
end

section
/-! A queue of commands run to its end, whatever it holds (41_commands.md R130). -/

namespace Sys2Proof.Machine

theorem step_keeps_ended {s t : State} (h : step s = .next t) : t.ended = s.ended := by
  obtain ⟨-, ⟨-, rfl⟩ | ⟨cmd, rest, i, -, -, hexec⟩⟩ := step_next_cases h
  · rfl
  · exact exec_keeps_ended (s := s.withPending rest) hexec

/-- A running block completes the offered command exactly when it decodes and meets its check (41_commands.md R120). -/
theorem step_next_iff {s : State} {cmd : Command} {rest : List Command} (hrun : s.ended = false)
    (hpending : s.pending = cmd :: rest) :
    (∃ t, step s = .next t) ↔ ∃ i, decode cmd = .command i ∧ (s.linkReady = true ∨ ∃ arg, i = .init arg) := by
  cases hdecode : decode cmd with
  | reserved => simp [step_of_reserved hrun hpending hdecode]
  | command i =>
    rw [step_of_decode hrun hpending hdecode]
    simp only [Decoded.command.injEq, exists_eq_left']
    constructor
    · rintro ⟨t, hexec⟩
      obtain ⟨hcheck, -⟩ := exec_next_ready hexec
      exact hcheck
    · exact exec_completes (s := s.withPending rest) hrun

/-- A completed command leaves the block running with its link ready, and the rest of the queue. -/
theorem step_next_of_cons {s t : State} {cmd : Command} {rest : List Command} (hpending : s.pending = cmd :: rest)
    (h : step s = .next t) : t.ended = false ∧ t.linkReady = true ∧ t.pending = rest := by
  obtain ⟨hrun, ⟨hempty, -⟩ | ⟨cmd', rest', i, hpending', -, hexec⟩⟩ := step_next_cases h
  · rw [hempty] at hpending
    cases hpending
  · obtain ⟨rfl, rfl⟩ := List.cons.inj (hpending.symm.trans hpending')
    obtain ⟨-, hready⟩ := exec_next_ready hexec
    obtain ⟨-, hrest, -⟩ := exec_frame hexec
    exact ⟨(step_keeps_ended h).trans hrun, hready, hrest⟩

theorem successful_runFor_succ {n : Nat} {s : State} :
    successful (runFor (n + 1) s) = true ↔ ∃ t, step s = .next t ∧ successful (runFor n t) = true := by
  rw [runFor]
  cases step s <;> simp [successful]

/-- A running block's run of its queue is successful exactly when every command decodes and, if the link is not ready
yet, the first is INIT. -/
theorem successful_runFor_queue_iff {q : List Command} {s : State} (hrun : s.ended = false) (hpending : s.pending = q) :
    successful (runFor q.length s) = true ↔
      (∀ cmd ∈ q, ∃ i, decode cmd = .command i) ∧
        (s.linkReady = true ∨ ∀ cmd ∈ q.head?, ∃ arg, decode cmd = .command (.init arg)) := by
  induction q generalizing s with
  | nil =>
    obtain ⟨hfaulted, hrefused⟩ := State.ended_eq_false_iff.mp hrun
    simp [runFor, successful, hfaulted, hrefused]
  | cons cmd rest ih =>
    have hfirst := step_next_iff hrun hpending
    rw [List.length_cons, successful_runFor_succ, List.forall_mem_cons]
    simp only [List.head?_cons, Option.mem_some_iff, forall_eq']
    constructor
    · rintro ⟨t, hstep, hsuccessful⟩
      obtain ⟨hrunT, -, hrest⟩ := step_next_of_cons hpending hstep
      obtain ⟨hdecodeRest, -⟩ := (ih hrunT hrest).mp hsuccessful
      obtain ⟨i, hdecode, hcheck⟩ := hfirst.mp ⟨t, hstep⟩
      exact ⟨⟨⟨i, hdecode⟩, hdecodeRest⟩, hcheck.imp_right fun ⟨arg, hinit⟩ => ⟨arg, hinit ▸ hdecode⟩⟩
    · rintro ⟨⟨⟨i, hdecode⟩, hdecodeRest⟩, hcheck⟩
      obtain ⟨t, hstep⟩ := hfirst.mpr ⟨i, hdecode, hcheck.imp_right fun ⟨arg, hinit⟩ =>
        ⟨arg, Decoded.command.inj (hdecode.symm.trans hinit)⟩⟩
      obtain ⟨hrunT, hreadyT, hrest⟩ := step_next_of_cons hpending hstep
      exact ⟨t, hstep, (ih hrunT hrest).mpr ⟨hdecodeRest, .inl hreadyT⟩⟩

end Sys2Proof.Machine
end

section
/-! How a run ends: in a running state, or in the state a fault or a refusal carries (41_commands.md R130, log 6). -/

namespace Sys2Proof.Machine

/-- No transaction is in progress: `cs_n` is 1 and the events are whole transactions (42_transmitter.md R141, R142).
This is the part of `Inv` that needs nothing of the parameters. -/
structure BetweenTransactions (s : State) : Prop where
  selectHigh : s.csN = true
  framed : wholeTransactions s.link = true

theorem betweenTransactions_resetUnder (cfg : Config) (n : Nat) : BetweenTransactions (State.resetUnder cfg n) :=
  ⟨rfl, rfl⟩

theorem exec_keeps_betweenTransactions {i : Instr} {s t : State} (hs : BetweenTransactions s) (h : exec i s = .next t) :
    BetweenTransactions t := by
  obtain ⟨-, -, -, -, hselect⟩ := exec_frame h
  refine ⟨hselect, ?_⟩
  cases hi : transmits i with
  | true =>
    obtain ⟨-, hlink⟩ := exec_transmits_next hi h
    rw [hlink]
    exact wholeTransactions_append _ _ hs.framed (wholeTransactions_transaction _ _)
  | false =>
    obtain ⟨arg, rfl⟩ := transmits_eq_false hi
    obtain rfl := exec_init_next h
    exact hs.framed

theorem step_keeps_betweenTransactions {s t : State} (hs : BetweenTransactions s) (h : step s = .next t) :
    BetweenTransactions t := by
  obtain ⟨-, ⟨-, rfl⟩ | ⟨cmd, rest, i, -, -, hexec⟩⟩ := step_next_cases h
  · exact hs
  · exact exec_keeps_betweenTransactions (s := s.withPending rest) ⟨hs.selectHigh, hs.framed⟩ hexec

/-- Everything a step of a running block can answer: a next state, or a fault or a refusal that sets its own mark. -/
theorem step_cases_of_running {s : State} (hrun : s.ended = false) :
    (∃ t, step s = .next t) ∨
      (∃ cmd q, step s = .fault (.notInitialised cmd (s.withPending q).markFaulted)) ∨
      ∃ cmd q, step s = .refused (.reservedOpcode cmd (s.withPending q).markRefused) := by
  cases hpending : s.pending with
  | nil => exact .inl ⟨s, (step_of_nil hpending).trans (unlessEnded_of_running hrun _)⟩
  | cons cmd rest =>
    cases hdecode : decode cmd with
    | reserved => exact .inr (.inr ⟨cmd, rest, step_of_reserved hrun hpending hdecode⟩)
    | command i =>
      rw [step_of_decode hrun hpending hdecode]
      cases hi : transmits i with
      | false => exact .inl (exec_completes (s := s.withPending rest) hrun (.inr (transmits_eq_false hi)))
      | true =>
        cases hready : s.linkReady with
        | true => exact .inl (exec_completes (s := s.withPending rest) hrun (.inl hready))
        | false => exact .inr (.inl ⟨encode i, rest, exec_of_not_ready (s := s.withPending rest) hi hrun hready⟩)

/-- The run ended in `t`, between transactions, with no mark if it is successful and one mark if it is not
(41_commands.md R130). -/
structure EndsIn (r : Result) (t : State) : Prop where
  final : finalState r = some t
  successful_iff : successful r = true ↔ t.faulted = false ∧ t.refused = false
  oneMark : t.faulted = false ∨ t.refused = false
  atRest : BetweenTransactions t

/-- Every run of a running block between transactions ends in such a state. -/
theorem runFor_endsIn {n : Nat} {s : State} (hrun : s.ended = false) (hs : BetweenTransactions s) :
    ∃ t, EndsIn (runFor n s) t := by
  obtain ⟨hfaulted, hrefused⟩ := State.ended_eq_false_iff.mp hrun
  induction n generalizing s with
  | zero => exact ⟨s, rfl, by simp [runFor, successful], .inl hfaulted, hs⟩
  | succ n ih =>
    obtain ⟨t, hstep⟩ | ⟨cmd, q, hstep⟩ | ⟨cmd, q, hstep⟩ := step_cases_of_running hrun
    · have hrunT := (step_keeps_ended hstep).trans hrun
      obtain ⟨hfaultedT, hrefusedT⟩ := State.ended_eq_false_iff.mp hrunT
      rw [runFor_succ hstep]
      exact ih hrunT (step_keeps_betweenTransactions hs hstep) hfaultedT hrefusedT
    · simp only [runFor, hstep]
      exact ⟨_, rfl, by simp [successful], .inr hrefused, hs.selectHigh, hs.framed⟩
    · simp only [runFor, hstep]
      exact ⟨_, rfl, by simp [successful], .inl hfaulted, hs.selectHigh, hs.framed⟩

end Sys2Proof.Machine
end

section
/-! The statements of 41_commands.md. -/

namespace Sys2Proof.Machine

/-- Settles O11: ended run, reserved word, link readiness. -/
theorem checksRunInOrder : Obligations.ChecksRunInOrder := by
  intro s cmd rest hpending
  refine ⟨fun hended => ?ended, fun hfaulted hrefused hdecode => ?reserved,
    fun i hfaulted hrefused hdecode hi hready => ?notReady, fun i hfaulted hrefused hdecode hcheck => ?completes⟩
  case ended => exact step_of_ended (State.ended_eq_true_iff.mpr hended)
  all_goals have hrun : s.ended = false := State.ended_eq_false_iff.mpr ⟨hfaulted, hrefused⟩
  case reserved => exact ⟨_, step_of_reserved hrun hpending hdecode⟩
  case notReady =>
    rw [step_of_decode hrun hpending hdecode, ← encode_of_decode hdecode]
    exact ⟨_, exec_of_not_ready (s := s.withPending rest) (transmits_of_ne_init hi) hrun hready⟩
  case completes => exact (step_next_iff hrun hpending).mpr ⟨i, hdecode, hcheck⟩

/-- Settles O13: INIT checks only that the run has not ended. -/
theorem initSetsUpLink : Obligations.InitSetsUpLink := by
  intro s arg hfaulted hrefused
  exact exec_init_of_running (State.ended_eq_false_iff.mpr ⟨hfaulted, hrefused⟩) arg

/-- Settles O14, by the bits of the control word it sends. -/
theorem outputOnClearsDisableBit : Obligations.OutputOnClearsDisableBit := by
  intro s arg hfaulted hrefused
  have hrun : s.ended = false := State.ended_eq_false_iff.mpr ⟨hfaulted, hrefused⟩
  refine ⟨fun hready => ?_, exec_of_not_ready rfl hrun⟩
  have hbits := clearDisable_getLsbD s.cfg s.ctrl
  exact ⟨_, exec_outputOn_of_ready hrun hready arg, fun k _ => hbits k,
    (outputState_eq_enabled _).mpr ((hbits _).trans (if_pos rfl)),
    rfl, rfl, rfl, hready, hfaulted, hrefused, rfl, rfl, rfl⟩

/-- Settles O15, by the bits of the control word it sends. -/
theorem outputOffSetsDisableBit : Obligations.OutputOffSetsDisableBit := by
  intro s arg hfaulted hrefused
  have hrun : s.ended = false := State.ended_eq_false_iff.mpr ⟨hfaulted, hrefused⟩
  refine ⟨fun hready => ?_, exec_of_not_ready rfl hrun⟩
  have hbits := setDisable_getLsbD s.cfg s.ctrl
  exact ⟨_, exec_outputOff_of_ready hrun hready arg, fun k _ => hbits k,
    (outputState_eq_disabled _).mpr ((hbits _).trans (if_pos rfl)),
    rfl, rfl, rfl, hready, hfaulted, hrefused, rfl, rfl, rfl⟩

/-- Settles O18, by the bits of the control word it sends. -/
theorem setWaveReplacesMaskedBits : Obligations.SetWaveReplacesMaskedBits := by
  intro s unused code hfaulted hrefused
  have hrun : s.ended = false := State.ended_eq_false_iff.mpr ⟨hfaulted, hrefused⟩
  refine ⟨fun hready => ?_, exec_of_not_ready rfl hrun⟩
  exact ⟨_, exec_setWave_of_ready hrun hready unused code, setWaveform_getLsbD_low s.cfg code s.ctrl,
    fun k hk _ => setWaveform_getLsbD_high s.cfg code s.ctrl k hk,
    rfl, rfl, rfl, hready, hfaulted, hrefused, rfl, rfl, rfl⟩

/-- Settles O22: the second SET_WAVE sends the control word of the first. -/
theorem waveformIsIdempotent : Obligations.WaveformIsIdempotent := by
  intro s unused unused' code hfaulted hrefused hready
  have hrun : s.ended = false := State.ended_eq_false_iff.mpr ⟨hfaulted, hrefused⟩
  have hsecond := exec_setWave_of_ready (s := s.withCtrlSent (setWaveform s.cfg code s.ctrl)) (by simpa using hrun)
    (by simpa using hready) unused' code
  rw [State.withCtrlSent_cfg, State.withCtrlSent_ctrl, setWaveform_idem] at hsecond
  exact ⟨_, _, exec_setWave_of_ready hrun hready unused code, hsecond, rfl, rfl, List.append_assoc _ _ _⟩

/-- Settles O23, bit by bit: the last OUTPUT_ON clears the disable bit, and none of the three writes another. -/
theorem enableRoundTrip : Obligations.EnableRoundTrip := by
  intro s a b c hfaulted hrefused hready
  have hrun : s.ended = false := State.ended_eq_false_iff.mpr ⟨hfaulted, hrefused⟩
  refine ⟨_, _, _, exec_outputOn_of_ready hrun hready a,
    exec_outputOff_of_ready (by simpa using hrun) (by simpa using hready) b,
    exec_outputOn_of_ready (by simpa using hrun) (by simpa using hready) c, ?_, fun k hk => ?_⟩
  · simp only [State.withCtrlSent_ctrl, State.withCtrlSent_cfg, clearDisable_getLsbD, if_true]
  · simp only [State.withCtrlSent_ctrl, State.withCtrlSent_cfg, clearDisable_getLsbD, setDisable_getLsbD, if_neg hk]

/-- Settles O46: after power-on the link is not ready, so the first command must be INIT. -/
theorem successfulRunsBeginWithInit : Obligations.SuccessfulRunsBeginWithInit := by
  intro s cmds
  have hiff := successful_runFor_queue_iff (q := cmds) (s := (powerOn s).withPending cmds) rfl rfl
  have hnotReady : ((powerOn s).withPending cmds).linkReady = false := rfl
  simp only [hnotReady, Bool.false_eq_true, false_or] at hiff
  exact hiff

/-- Settles O47: power-on leaves a running block between transactions. -/
theorem everyRunEndsObservably : Obligations.EveryRunEndsObservably := by
  intro s cmds
  have hreset := betweenTransactions_resetUnder s.cfg s.draws
  obtain ⟨t, ht⟩ := runFor_endsIn (n := cmds.length) (s := (powerOn s).withPending cmds) rfl
    ⟨hreset.selectHigh, hreset.framed⟩
  exact ⟨t, ht.final, ht.successful_iff, ht.oneMark, ht.atRest.selectHigh, ht.atRest.framed⟩

end Sys2Proof.Machine
end

section
/-! The statements of 42_transmitter.md on what a transaction puts on the link (R140, R143). -/

namespace Sys2Proof.Machine

/-- Settles O38: bit-time `k` carries its bit of the frame, and byte `k / 8` sent is byte `5 - k / 8` of the frame from bit 0. -/
theorem transactionBitsAreTheFrame : Obligations.TransactionBitsAreTheFrame := by
  intro c p
  refine ⟨serialBits_transaction .msbFirst c p, (serialBits_transaction .lsbFirst c p).trans ?_⟩
  refine List.map_congr_left fun k _ => ?_
  have hbyte : 40 - 8 * (k / 8) = 8 * (5 - k / 8) := by omega
  rw [frameBit, frameOf, hbyte]

/-- Settles O35: TRANSMIT appends one transaction, whose bytes are the slices of CTRL and PAYLOAD. -/
theorem transactionIsSixBytesUnderSelect : Obligations.TransactionIsSixBytesUnderSelect :=
  transmit_eq

end Sys2Proof.Machine
end

section
/-! What a step answers in the spec's own form, in each case of the checks (60_exceptions.md R164 to R168). -/

namespace Sys2Proof.Machine

/-- The RESERVED commands are the words with OP 0 or 6 to 15 (30_encoding.md R62), and no exact SET_FREQ. -/
theorem decode_reserved_iff {cmd : Command} :
    decode cmd = .reserved ↔
      ∃ w : CommandWord, cmd = .word w ∧ (w.toNat / 2 ^ 32 = 0 ∨ 6 ≤ w.toNat / 2 ^ 32) := by
  cases cmd with
  | word w =>
    obtain ⟨hreserved, -⟩ := decodingReadsOpAlone w
    rw [decode, hreserved]
    simp only [Command.word.injEq, exists_eq_left']
  | exactFreq f => simp [decode]

theorem stepOutcome_of_next {s t : State} (h : step s = .next t) :
    stepOutcome s = some (.next t (stepEvents s t)) := by
  rw [stepOutcome, h]

theorem stepOutcome_of_ended {s : State} (h : s.ended = true) : stepOutcome s = none := by
  rw [stepOutcome, step_of_ended h]

/-- With no command offered, a running block waits (log 8). -/
theorem stepOutcome_of_nil {s : State} (hrun : s.ended = false) (hpending : s.pending = []) :
    stepOutcome s = some (.next s (stepEvents s s)) :=
  stepOutcome_of_next ((step_of_nil hpending).trans (unlessEnded_of_running hrun _))

theorem stepOutcome_of_reserved {s : State} {cmd : Command} {rest : List Command} (hrun : s.ended = false)
    (hpending : s.pending = cmd :: rest) (hdecode : decode cmd = .reserved) :
    stepOutcome s = some (.refused .reservedOpcode) := by
  rw [stepOutcome, step_of_reserved hrun hpending hdecode]

theorem stepOutcome_of_not_ready {s : State} {cmd : Command} {rest : List Command} {i : Instr} (hrun : s.ended = false)
    (hpending : s.pending = cmd :: rest) (hdecode : decode cmd = .command i) (hi : transmits i = true)
    (hready : s.linkReady = false) : stepOutcome s = some (.fault .notInitialised) := by
  rw [stepOutcome, step_of_decode hrun hpending hdecode, exec_of_not_ready (s := s.withPending rest) hi hrun hready]

/-- Every other command completes: INIT, or any command once the link is ready. -/
theorem stepOutcome_of_completes {s : State} {cmd : Command} {rest : List Command} {i : Instr} (hrun : s.ended = false)
    (hpending : s.pending = cmd :: rest) (hdecode : decode cmd = .command i)
    (hcheck : ¬(s.linkReady = false ∧ transmits i = true)) :
    ∃ t, stepOutcome s = some (.next t (stepEvents s t)) := by
  have hmet : s.linkReady = true ∨ ∃ arg, i = .init arg := by
    cases hready : s.linkReady with
    | true => exact .inl rfl
    | false => exact .inr (transmits_eq_false (by simpa [hready] using hcheck))
  obtain ⟨t, hstep⟩ := (step_next_iff hrun hpending).mpr ⟨i, hdecode, hmet⟩
  exact ⟨t, stepOutcome_of_next hstep⟩

end Sys2Proof.Machine
end

section
/-! The statements of 60_exceptions.md. -/

namespace Sys2Proof.Machine

/-- Settles O53, by the checks in R168's order: each case has one outcome, and the conditions exclude each other. -/
theorem stepHasTheSpecsOutcomes : Obligations.StepHasTheSpecsOutcomes := by
  intro s
  cases hrun : s.ended with
  | true =>
    have hmark := State.ended_eq_true_iff.mp hrun
    have hmarks : ¬(s.faulted = false ∧ s.refused = false) := by simp [← State.ended_eq_false_iff, hrun]
    simp only [stepOutcome_of_ended hrun, hmark, ← and_assoc, hmarks, reduceCtorEq, false_and, and_self]
  | false =>
    obtain ⟨hfaulted, hrefused⟩ := State.ended_eq_false_iff.mp hrun
    simp only [hfaulted, hrefused, true_and, Bool.false_eq_true, or_self, iff_false]
    cases hpending : s.pending with
    | nil => simp [stepOutcome_of_nil hrun hpending]
    | cons cmd rest =>
      simp only [List.head?_cons, Option.some.injEq, ← decode_reserved_iff, exists_and_left, exists_eq_left']
      cases hdecode : decode cmd with
      | reserved => simp [stepOutcome_of_reserved hrun hpending hdecode]
      | command i =>
        simp only [Decoded.command.injEq, exists_eq_left']
        by_cases hcheck : s.linkReady = false ∧ transmits i = true
        · obtain ⟨hready, hi⟩ := hcheck
          simp [stepOutcome_of_not_ready hrun hpending hdecode hi hready, hready, hi]
        · obtain ⟨t, houtcome⟩ := stepOutcome_of_completes hrun hpending hdecode hcheck
          simp [houtcome, hcheck]

/-- Settles O8: the refusal comes before the command could write or send anything. -/
theorem reservedWordRefused : Obligations.ReservedWordRefused := by
  intro s w rest hfaulted hrefused hpending hop
  exact step_of_reserved (State.ended_eq_false_iff.mpr ⟨hfaulted, hrefused⟩) hpending
    (decode_reserved_iff.mpr ⟨w, rfl, hop⟩)

/-- Settles O9: every instruction but INIT meets the check of link readiness. -/
theorem transmitBeforeInitFaults : Obligations.TransmitBeforeInitFaults := by
  intro s i hfaulted hrefused hready hi
  exact exec_of_not_ready (transmits_of_ne_init hi) (State.ended_eq_false_iff.mpr ⟨hfaulted, hrefused⟩) hready

/-- Settles O10: a step goes on only from a running state, and keeps the marks. -/
theorem endedRunHasNoStep : Obligations.EndedRunHasNoStep := by
  refine ⟨fun s hmark => ?ended, fun s t hstep => ?next⟩
  case ended =>
    have hended : s.ended = true := State.ended_eq_true_iff.mpr hmark
    exact ⟨step_of_ended hended, exec_of_ended hended⟩
  case next =>
    obtain ⟨hrun, -⟩ := step_next_cases hstep
    exact State.ended_eq_false_iff.mp ((step_keeps_ended hstep).trans hrun)

end Sys2Proof.Machine
end

section
/-! The statements of 70_reset_and_hazards.md on power-on reset (R180, R181). -/

namespace Sys2Proof.Machine

/-- The first reset and every power-on reset are one operation, which differs only in the parameters it keeps and in the
draw that PAYLOAD takes. -/
theorem eq_resetUnder_of_reset {r : State} (h : r = State.reset ∨ ∃ s : State, r = powerOn s) :
    ∃ cfg n, r = State.resetUnder cfg n := by
  obtain rfl | ⟨s, rfl⟩ := h
  · exact ⟨Config.machine, 0, rfl⟩
  · exact ⟨s.cfg, s.draws, rfl⟩

/-- After reset the output state is read off CTRL_INIT (10_state.md R27). -/
theorem outputState_resetUnder (cfg : Config) (n : Nat) :
    (State.resetUnder cfg n).outputState = if cfg.ctrlInit.getLsbD cfg.disableBit.val then .disabled else .enabled :=
  rfl

/-- Settles O1, element by element, for the parameters and the draw of either reset. -/
theorem resetLeavesSpecValues : Obligations.ResetLeavesSpecValues := by
  intro r hr
  obtain ⟨cfg, n, rfl⟩ := eq_resetUnder_of_reset hr
  exact ⟨State.resetUnder_ctrl cfg n, ⟨n, State.resetUnder_payload cfg n⟩, State.resetUnder_csN cfg n,
    State.resetUnder_linkReady cfg n, State.resetUnder_faulted cfg n, State.resetUnder_refused cfg n,
    State.resetUnder_link cfg n, outputState_resetUnder cfg n⟩

/-- Settles O40: this machine's parameters meet R6, and reset meets the rest under any parameters. -/
theorem invariantAtReset : Obligations.InvariantAtReset :=
  inv_resetUnder Config.machine_legal 0

end Sys2Proof.Machine
end

section
/-! The value of a finite binary32 pattern as a rational (30_encoding.md R64). -/

namespace Sys2Proof.Machine

/-- `(-1)^s * n` as a rational. -/
theorem signedBy_cast (sign : Bool) (n : Nat) : (signedBy sign n : ℚ) = (if sign then -1 else 1) * (n : ℚ) := by
  cases sign with
  | false => exact (Int.cast_natCast n).trans (one_mul _).symm
  | true => exact (Int.cast_neg _).trans ((congrArg Neg.neg (Int.cast_natCast n)).trans (neg_one_mul _).symm)

theorem binary32Val_special {a : BitVec 32} (h : binary32Exponent a = 255) : binary32Val a = none :=
  if_pos h

theorem binary32Val_subnormal {a : BitVec 32} (h : binary32Exponent a = 0) :
    binary32Val a = some (scaled (signedBy (binary32Sign a) (binary32Fraction a)) 1) := by
  rw [binary32Val, if_neg (by omega), if_pos h]

theorem binary32Val_normal {a : BitVec 32} (hzero : binary32Exponent a ≠ 0) (hfinite : binary32Exponent a ≠ 255) :
    binary32Val a = some (scaled (signedBy (binary32Sign a) (2 ^ 23 + binary32Fraction a)) (binary32Exponent a)) := by
  rw [binary32Val, if_neg hfinite, if_neg hzero]

/-- Settles O28, by the three classes of exponents; a subnormal magnitude is scaled as if its exponent were 1. -/
theorem binary32ValueIsExact : Obligations.Binary32ValueIsExact := by
  intro a
  refine ⟨binary32Val_special, fun hzero => ?subnormal, fun hzero hfinite => ?normal⟩
  case subnormal =>
    refine ⟨_, binary32Val_subnormal hzero, ExactFreq.den_pos _, ?_⟩
    have hexponent : ((1 : ℕ) : ℤ) - 150 = -149 := by decide
    rw [scaled_value, signedBy_cast, binary32Sign, hexponent]
  case normal =>
    refine ⟨_, binary32Val_normal hzero hfinite, ExactFreq.den_pos _, ?_⟩
    rw [scaled_value, signedBy_cast, binary32Sign, Nat.cast_add, Nat.cast_pow, Nat.cast_ofNat]

end Sys2Proof.Machine
end

section
/-! The waiting step (70_reset_and_hazards.md section 3). -/

namespace Sys2Proof.Machine

/-- Settles O12: a step with no command offered is the wait, which the check for an ended run lets through. -/
theorem noCommandOfferedWaits : Obligations.NoCommandOfferedWaits := by
  intro s hfaulted hrefused hpending
  rw [step_of_nil hpending]
  exact unlessEnded_of_running (State.ended_eq_false_iff.mpr ⟨hfaulted, hrefused⟩) _

end Sys2Proof.Machine
end
